-- ==== Sys2Proof/Word.lean ====
section
/-! DEFINITION. The value types of the block (00_scope.md R6): u8, u16 and u7, all unsigned. -/

namespace Sys2Proof

/-- u8 (R6). -/
abbrev Byte := BitVec 8

/-- u16 (R6). -/
abbrev Word := BitVec 16

/-- u7, a device bus address (R6, R22). -/
abbrev BusAddr := BitVec 7

end Sys2Proof
end

