-- ==== Sys2Proof/Machine/Bytes.lean ====
section
/-! DEFINITION. Byte order (20_memory.md R52 to R55): everything wider than a byte is big-endian. -/

namespace Sys2Proof.Machine

/-- `w[15:8]` (R7). -/
def hiByte (w : Word) : Byte := w.extractLsb' 8 8

/-- `w[7:0]` (R7). -/
def loByte (w : Word) : Byte := w.extractLsb' 0 8

/-- `BE16(w) = [w[15:8], w[7:0]]` (R9). -/
def be16 (w : Word) : List Byte := [hiByte w, loByte w]

/-- `(zext_16(hi) << 8) | zext_16(lo)` (R53, R119). -/
def wordOf (hi lo : Byte) : Word := (hi.zeroExtend 16 <<< 8) ||| lo.zeroExtend 16

end Sys2Proof.Machine
end

