-- ==== Sys2Proof/Config.lean ====
section
/-! DEFINITION. The constants the source hardwires, and the type of the parameters it leaves open
(00_scope.md R5, 10_state.md R40 to R42). The open ones are data, bound at construction and held in State, so that
every statement about the machine ranges over all of them; their reference values are in Machine/Rom.lean. -/

namespace Sys2Proof

/-- CRC_POLY (R5, R40). -/
def crcPoly : Byte := 0x31

/-- CRC_INIT (R5, R40). -/
def crcInit : Byte := 0xFF

/-- CRC_XOROUT (R5, R40). -/
def crcXorOut : Byte := 0x00

/-- CRC_REFIN (R40): whether a byte is bit-reversed before it is folded. It is 0. -/
def crcRefin : Bool := false

/-- CRC_REFOUT (R40): whether the accumulator is bit-reversed before CRC_XOROUT. It is 0. -/
def crcRefout : Bool := false

/-- MAX_WORDS, the largest response word count (R5, R40). -/
def maxWords : Nat := 2

/-- BUF_SIZE, the scratch buffer's size in bytes (R5, R50). -/
def bufSize : Nat := 6

/-- RETRY_DELAY_MS, the delay before a bare read (R5, R23, R40). -/
def retryDelayMs : Nat := 1

/-- TransportCause, the opaque cause of a transport failure (R5, D27). The block passes it on and never looks
inside. DESIGN CHOICE, safe: a token told apart by a number (log 4). -/
structure TransportCause where
  token : Nat
deriving DecidableEq, Repr

/-- RETRY_POLICY (R40, D11): the source's current design, or at most `k` bare reads. -/
inductive RetryPolicy where
  | unbounded
  | bounded (k : Nat)
deriving DecidableEq, Repr

/-- One rate's row of the start tables (R42, R89): START_BASE[r], and START_SEL[r][m] for m = 0..3. -/
structure StartRow where
  base : Word
  sel  : Vector Word 4
deriving DecidableEq, Repr

/-- The parameters bound at construction (R250) and never written after it (R40, R42). -/
structure Params where
  /-- DEV_ADDR (R40). -/
  devAddr : BusAddr
  /-- RETRY_POLICY (R40). -/
  retry : RetryPolicy
  /-- HEATER_CFG_CRC (R40): whether a checksum byte follows the heater setting; false in the source. -/
  heaterCfgCrc : Bool
  /-- CMD_CODE (R42), indexed by the command id of R84. -/
  cmdCode : Vector Word 16
  /-- START_BASE and START_SEL (R42), row r for rate r: N_PERIODIC_RATES + 1 rows. -/
  starts : List StartRow
  /-- HEATER_SETTING (R42), entry l - 1 for the non-off level l: N_HEATER entries. -/
  heaterSetting : List Word
deriving DecidableEq, Repr

end Sys2Proof
end

