-- ==== Sys2Proof/Machine/Flags.lean ====
section
/-! DEFINITION. The checksum arithmetic of the block (41_checksum.md R110 to R115, with the parameters of 10_state.md R40): the one-bit step, the table, the
accumulate, and the whole checksum of a two-byte payload. The block has no flags beyond RESULT (R35), whose condition
code is `Response.code` in Machine/Memory.lean. -/

namespace Sys2Proof.Machine

/-- `BSTEP(a)` (R110): shift left by one; if the bit shifted out was 1, subtract the polynomial. -/
def bstep (a : Byte) : Byte :=
  if a.getLsbD 7 then (a <<< 1) ^^^ crcPoly else a <<< 1

/-- `CRC_TABLE[i]` (R111): i through eight bit steps. -/
def crcTable (i : Byte) : Byte :=
  bstep (bstep (bstep (bstep (bstep (bstep (bstep (bstep i)))))))

/-- A byte under a reflection parameter (R40): its bits reversed where the parameter is set, itself where it is not. -/
def reflectIf (on : Bool) (b : Byte) : Byte := if on then b.reverse else b

/-- The accumulate of one byte (R114): `CRC_TABLE[ACC ^ b]`, the byte reflected under CRC_REFIN. -/
def fold (acc b : Byte) : Byte := crcTable (acc ^^^ reflectIf crcRefin b)

/-- The value a checksum ends with (R115): ACC, reflected under CRC_REFOUT, xor CRC_XOROUT. -/
def checksumOut (acc : Byte) : Byte := reflectIf crcRefout acc ^^^ crcXorOut

/-- `CHECKSUM(b0, b1)` (R115) as a value. -/
def checksum (b0 b1 : Byte) : Byte := checksumOut (fold (fold crcInit b0) b1)

end Sys2Proof.Machine
end

