-- ==== Sys2Proof/Syntax.lean ====
section
/-! DEFINITION. The instructions: one constructor per row of spec/opcode_table.json (40 command codes, 11 requests),
and the request type Op of 30_encoding.md R90 that the register OP holds. -/

namespace Sys2Proof

/-- LowPowerMode, a 2-bit index (R86). -/
inductive LowPowerMode where
  | lpm0 | lpm1 | lpm2 | lpm3
deriving DecidableEq, Repr

/-- AutoReadTarget (R87). -/
inductive AutoReadTarget where
  | lastTempAndRH | minTemp | maxTemp | minRH | maxRH
deriving DecidableEq, Repr

/-- CommandId, the fixed command ids (R84). -/
inductive CommandId where
  | autoExit | readTrh | readTmin | readTmax | readRhmin | readRhmax | heaterDis | heaterEn | heaterCfg
  | statusRead | statusClear | serial0 | serial1 | serial2 | mfrId | softReset
deriving DecidableEq, Repr

/-- The rows of the opcode table. A command row (formats CMD and CFG, R80, R81) is one step of an operation: its frame
handed to the transport. A request row (format REQ, R90) is a request presented by the caller. -/
inductive Instr where
  -- start-sampling commands, R142 to R147
  | trigOsLpm0 | trigOsLpm1 | trigOsLpm2 | trigOsLpm3
  | auto0p5HzLpm0 | auto0p5HzLpm1 | auto0p5HzLpm2 | auto0p5HzLpm3
  | auto1HzLpm0 | auto1HzLpm1 | auto1HzLpm2 | auto1HzLpm3
  | auto2HzLpm0 | auto2HzLpm1 | auto2HzLpm2 | auto2HzLpm3
  | auto4HzLpm0 | auto4HzLpm1 | auto4HzLpm2 | auto4HzLpm3
  | auto10HzLpm0 | auto10HzLpm1 | auto10HzLpm2 | auto10HzLpm3
  -- fixed commands, R148 to R164
  | autoExit
  | readTrh | readTmin | readTmax | readRhmin | readRhmax
  | heaterDis | heaterEn
  | heaterCfg (setting : Word)
  | statusRead | statusClear
  | serial0 | serial1 | serial2
  | mfrId
  | softReset
  -- requests, R187 to R199
  | reqOneShot (lpm : LowPowerMode)
  | reqAutoStart (rate : Nat) (lpm : LowPowerMode)
  | reqAutoStop
  | reqAutoRead (target : AutoReadTarget)
  | reqHeater (level : Nat)
  | reqReadStatus (clear : Bool)
  | reqReadSerial
  | reqReadMfrId
  | reqSoftReset
  | reqExec (cmd : Word) (n : Nat)
  | reqChecksum (b0 b1 : Byte)
deriving DecidableEq, Repr

/-- The request type Op (R90). A rate is an index 0..N_PERIODIC_RATES (R85), a heater level an index 0..N_HEATER with
0 for Off (R88); both counts are parameters, so the ranges are checked in WellFormed.lean. -/
inductive Op where
  | oneShot (lpm : LowPowerMode)
  | autoStart (rate : Nat) (lpm : LowPowerMode)
  | autoStop
  | autoRead (target : AutoReadTarget)
  | heater (level : Nat)
  | readStatus (clear : Bool)
  | readSerial
  | readMfrId
  | softReset
  | exec (cmd : Word) (n : Nat)
  | checksum (b0 b1 : Byte)
deriving DecidableEq, Repr

end Sys2Proof
end

