-- ==== Sys2Proof/Machine/Rom.lean ====
section
/-! DEFINITION. The command ROM (10_state.md R42): looking a code or a setting up in the parameter tables, the rows of
the opcode table that name each code, and the reference instantiation (30_encoding.md R93). -/

namespace Sys2Proof

/-- The index of a low-power mode (R86). -/
def LowPowerMode.index : LowPowerMode → Fin 4
  | .lpm0 => 0 | .lpm1 => 1 | .lpm2 => 2 | .lpm3 => 3

/-- The index of a fixed command id (R84). -/
def CommandId.index : CommandId → Fin 16
  | .autoExit => 0 | .readTrh => 1 | .readTmin => 2 | .readTmax => 3 | .readRhmin => 4 | .readRhmax => 5
  | .heaterDis => 6 | .heaterEn => 7 | .heaterCfg => 8 | .statusRead => 9 | .statusClear => 10
  | .serial0 => 11 | .serial1 => 12 | .serial2 => 13 | .mfrId => 14 | .softReset => 15

/-- Every low-power mode, in index order (R86). -/
def LowPowerMode.all : List LowPowerMode := [.lpm0, .lpm1, .lpm2, .lpm3]

/-- Every fixed command id, in index order (R84). -/
def CommandId.all : List CommandId :=
  [.autoExit, .readTrh, .readTmin, .readTmax, .readRhmin, .readRhmax, .heaterDis, .heaterEn, .heaterCfg,
   .statusRead, .statusClear, .serial0, .serial1, .serial2, .mfrId, .softReset]

/-- `CMD_CODE[id]` (R42). -/
def Params.code (p : Params) (id : CommandId) : Word := p.cmdCode[id.index]

/-- `START_BASE[r] | START_SEL[r][m]` for one row of the start tables (R89). -/
def StartRow.code (row : StartRow) (m : LowPowerMode) : Word := row.base ||| row.sel[m.index]

/-- `START(r, m)` (R89); none for a rate the instantiation does not have (R98). -/
def Params.start (p : Params) (r : Nat) (m : LowPowerMode) : Option Word :=
  match p.starts[r]? with
  | some row => some (row.code m)
  | none => none

/-- `HEATER_SETTING[level]` for a non-off level (R88); none for Off and for a level the instantiation does not have. -/
def Params.setting (p : Params) : Nat → Option Word
  | 0 => none
  | l + 1 => p.heaterSetting[l]?

/-- Every code the block can emit (R93): the 16 fixed ones, then START(r, m) rate by rate. -/
def Params.codes (p : Params) : List Word :=
  CommandId.all.map p.code ++ p.starts.flatMap (fun row => LowPowerMode.all.map row.code)

/-- The (rate, low-power mode) of a start-sampling row (R142 to R147). -/
def Instr.startOf : Instr → Option (Nat × LowPowerMode)
  | .trigOsLpm0 => some (0, .lpm0) | .trigOsLpm1 => some (0, .lpm1)
  | .trigOsLpm2 => some (0, .lpm2) | .trigOsLpm3 => some (0, .lpm3)
  | .auto0p5HzLpm0 => some (1, .lpm0) | .auto0p5HzLpm1 => some (1, .lpm1)
  | .auto0p5HzLpm2 => some (1, .lpm2) | .auto0p5HzLpm3 => some (1, .lpm3)
  | .auto1HzLpm0 => some (2, .lpm0) | .auto1HzLpm1 => some (2, .lpm1)
  | .auto1HzLpm2 => some (2, .lpm2) | .auto1HzLpm3 => some (2, .lpm3)
  | .auto2HzLpm0 => some (3, .lpm0) | .auto2HzLpm1 => some (3, .lpm1)
  | .auto2HzLpm2 => some (3, .lpm2) | .auto2HzLpm3 => some (3, .lpm3)
  | .auto4HzLpm0 => some (4, .lpm0) | .auto4HzLpm1 => some (4, .lpm1)
  | .auto4HzLpm2 => some (4, .lpm2) | .auto4HzLpm3 => some (4, .lpm3)
  | .auto10HzLpm0 => some (5, .lpm0) | .auto10HzLpm1 => some (5, .lpm1)
  | .auto10HzLpm2 => some (5, .lpm2) | .auto10HzLpm3 => some (5, .lpm3)
  | .autoExit | .readTrh | .readTmin | .readTmax | .readRhmin | .readRhmax | .heaterDis | .heaterEn | .heaterCfg _
  | .statusRead | .statusClear | .serial0 | .serial1 | .serial2 | .mfrId | .softReset
  | .reqOneShot _ | .reqAutoStart _ _ | .reqAutoStop | .reqAutoRead _ | .reqHeater _ | .reqReadStatus _
  | .reqReadSerial | .reqReadMfrId | .reqSoftReset | .reqExec _ _ | .reqChecksum _ _ => none

/-- The command id of a fixed row of format CMD (R148 to R164). -/
def Instr.fixedOf : Instr → Option CommandId
  | .autoExit => some .autoExit
  | .readTrh => some .readTrh | .readTmin => some .readTmin | .readTmax => some .readTmax
  | .readRhmin => some .readRhmin | .readRhmax => some .readRhmax
  | .heaterDis => some .heaterDis | .heaterEn => some .heaterEn
  | .statusRead => some .statusRead | .statusClear => some .statusClear
  | .serial0 => some .serial0 | .serial1 => some .serial1 | .serial2 => some .serial2
  | .mfrId => some .mfrId | .softReset => some .softReset
  | .trigOsLpm0 | .trigOsLpm1 | .trigOsLpm2 | .trigOsLpm3
  | .auto0p5HzLpm0 | .auto0p5HzLpm1 | .auto0p5HzLpm2 | .auto0p5HzLpm3
  | .auto1HzLpm0 | .auto1HzLpm1 | .auto1HzLpm2 | .auto1HzLpm3
  | .auto2HzLpm0 | .auto2HzLpm1 | .auto2HzLpm2 | .auto2HzLpm3
  | .auto4HzLpm0 | .auto4HzLpm1 | .auto4HzLpm2 | .auto4HzLpm3
  | .auto10HzLpm0 | .auto10HzLpm1 | .auto10HzLpm2 | .auto10HzLpm3
  | .heaterCfg _
  | .reqOneShot _ | .reqAutoStart _ _ | .reqAutoStop | .reqAutoRead _ | .reqHeater _ | .reqReadStatus _
  | .reqReadSerial | .reqReadMfrId | .reqSoftReset | .reqExec _ _ | .reqChecksum _ _ => none

/-- The request a request row presents (R90). -/
def Instr.opOf : Instr → Option Op
  | .reqOneShot m => some (.oneShot m)
  | .reqAutoStart r m => some (.autoStart r m)
  | .reqAutoStop => some .autoStop
  | .reqAutoRead t => some (.autoRead t)
  | .reqHeater l => some (.heater l)
  | .reqReadStatus c => some (.readStatus c)
  | .reqReadSerial => some .readSerial
  | .reqReadMfrId => some .readMfrId
  | .reqSoftReset => some .softReset
  | .reqExec c n => some (.exec c n)
  | .reqChecksum b0 b1 => some (.checksum b0 b1)
  | .trigOsLpm0 | .trigOsLpm1 | .trigOsLpm2 | .trigOsLpm3
  | .auto0p5HzLpm0 | .auto0p5HzLpm1 | .auto0p5HzLpm2 | .auto0p5HzLpm3
  | .auto1HzLpm0 | .auto1HzLpm1 | .auto1HzLpm2 | .auto1HzLpm3
  | .auto2HzLpm0 | .auto2HzLpm1 | .auto2HzLpm2 | .auto2HzLpm3
  | .auto4HzLpm0 | .auto4HzLpm1 | .auto4HzLpm2 | .auto4HzLpm3
  | .auto10HzLpm0 | .auto10HzLpm1 | .auto10HzLpm2 | .auto10HzLpm3
  | .autoExit | .readTrh | .readTmin | .readTmax | .readRhmin | .readRhmax | .heaterDis | .heaterEn | .heaterCfg _
  | .statusRead | .statusClear | .serial0 | .serial1 | .serial2 | .mfrId | .softReset => none

/-- The request row that presents a request (R90). -/
def Op.instr : Op → Instr
  | .oneShot m => .reqOneShot m
  | .autoStart r m => .reqAutoStart r m
  | .autoStop => .reqAutoStop
  | .autoRead t => .reqAutoRead t
  | .heater l => .reqHeater l
  | .readStatus c => .reqReadStatus c
  | .readSerial => .reqReadSerial
  | .readMfrId => .reqReadMfrId
  | .softReset => .reqSoftReset
  | .exec c n => .reqExec c n
  | .checksum b0 b1 => .reqChecksum b0 b1

/-- The opcode table's row for START(r, m); none for a rate the table has no rows for (an instantiation with more than
five periodic rates: R147, log 18). -/
def Instr.ofStart : Nat → LowPowerMode → Option Instr
  | 0, .lpm0 => some .trigOsLpm0 | 0, .lpm1 => some .trigOsLpm1
  | 0, .lpm2 => some .trigOsLpm2 | 0, .lpm3 => some .trigOsLpm3
  | 1, .lpm0 => some .auto0p5HzLpm0 | 1, .lpm1 => some .auto0p5HzLpm1
  | 1, .lpm2 => some .auto0p5HzLpm2 | 1, .lpm3 => some .auto0p5HzLpm3
  | 2, .lpm0 => some .auto1HzLpm0 | 2, .lpm1 => some .auto1HzLpm1
  | 2, .lpm2 => some .auto1HzLpm2 | 2, .lpm3 => some .auto1HzLpm3
  | 3, .lpm0 => some .auto2HzLpm0 | 3, .lpm1 => some .auto2HzLpm1
  | 3, .lpm2 => some .auto2HzLpm2 | 3, .lpm3 => some .auto2HzLpm3
  | 4, .lpm0 => some .auto4HzLpm0 | 4, .lpm1 => some .auto4HzLpm1
  | 4, .lpm2 => some .auto4HzLpm2 | 4, .lpm3 => some .auto4HzLpm3
  | 5, .lpm0 => some .auto10HzLpm0 | 5, .lpm1 => some .auto10HzLpm1
  | 5, .lpm2 => some .auto10HzLpm2 | 5, .lpm3 => some .auto10HzLpm3
  | _ + 6, _ => none

/-- The rows of format CMD, in the table's order. -/
def Instr.cmdRows : List Instr :=
  [.trigOsLpm0, .trigOsLpm1, .trigOsLpm2, .trigOsLpm3,
   .auto0p5HzLpm0, .auto0p5HzLpm1, .auto0p5HzLpm2, .auto0p5HzLpm3,
   .auto1HzLpm0, .auto1HzLpm1, .auto1HzLpm2, .auto1HzLpm3,
   .auto2HzLpm0, .auto2HzLpm1, .auto2HzLpm2, .auto2HzLpm3,
   .auto4HzLpm0, .auto4HzLpm1, .auto4HzLpm2, .auto4HzLpm3,
   .auto10HzLpm0, .auto10HzLpm1, .auto10HzLpm2, .auto10HzLpm3] ++
  [.autoExit, .readTrh, .readTmin, .readTmax, .readRhmin, .readRhmax, .heaterDis, .heaterEn,
   .statusRead, .statusClear, .serial0, .serial1, .serial2, .mfrId, .softReset]

/-- The 16-bit code of a row of format CMD under an instantiation of the parameters (R93); none for another row, and
for a rate the instantiation does not have. -/
def Instr.cmdCodeOf (p : Params) (i : Instr) : Option Word :=
  match i.startOf with
  | some (r, m) => p.start r m
  | none =>
    match i.fixedOf with
    | some id => some (p.code id)
    | none => none

/-- PRESUMED, unsafe (log 5): the reference instantiation of R93, R88 and D25, from general knowledge (G4, G5, G7, G8);
only START(OneShot, 0) = 0x2400 (R94) and HEATER_CFG_CRC = 0 (R40) are the source's. -/
def Params.reference : Params where
  devAddr := 0x44
  retry := .unbounded
  heaterCfgCrc := false
  cmdCode := #v[0x3093, 0xE000, 0xE002, 0xE003, 0xE004, 0xE005, 0x3066, 0x306D,
                0x306E, 0xF32D, 0x3041, 0x3683, 0x3684, 0x3685, 0x3781, 0x30A2]
  starts :=
    [⟨0x2400, #v[0x00, 0x0B, 0x16, 0xFF]⟩,
     ⟨0x2000, #v[0x32, 0x24, 0x2F, 0xFF]⟩,
     ⟨0x2100, #v[0x30, 0x26, 0x2D, 0xFF]⟩,
     ⟨0x2200, #v[0x36, 0x20, 0x2B, 0xFF]⟩,
     ⟨0x2300, #v[0x34, 0x22, 0x29, 0xFF]⟩,
     ⟨0x2700, #v[0x37, 0x21, 0x2A, 0xFF]⟩]
  heaterSetting := [0x009F, 0x03FF, 0x3FFF]

end Sys2Proof
end

