-- ==== Sys2Proof/WellFormed.lean ====
section
/-! DEFINITION. What the types of the spec exclude (30_encoding.md R98) and what an instantiation of the parameters must
satisfy (R94, R95, R5), as checks that compute. -/

namespace Sys2Proof

/-- The operands of a request are values of their types (R85, R88, R98). Every other operand's type holds legal values
only, and the word count of EXEC is any natural number (R90). -/
def Op.wf (p : Params) : Op → Bool
  | .autoStart r _ => decide (r < p.starts.length)
  | .heater l => decide (l ≤ p.heaterSetting.length)
  | .oneShot _ | .autoStop | .autoRead _ | .readStatus _ | .readSerial | .readMfrId | .softReset | .exec _ _
  | .checksum _ _ => true

/-- An instruction exists under an instantiation: a start row's rate is one of its rates (R147), a request's operands
are in range (R98). -/
def Instr.wf (p : Params) (i : Instr) : Bool :=
  match i.startOf, i.opOf with
  | some (r, _), _ => decide (r < p.starts.length)
  | none, some op => op.wf p
  | none, none => true

/-- A retry bound is at least 1 (R40). -/
def RetryPolicy.wf : RetryPolicy → Bool
  | .unbounded => true
  | .bounded k => decide (1 ≤ k)

/-- What R5, R94 and R95 ask of an instantiation: at least one periodic rate and one heater level, K ≥ 1,
START(OneShot, 0) = 0x2400, and all codes distinct. -/
def Params.wf (p : Params) : Bool :=
  p.retry.wf && decide (2 ≤ p.starts.length) && decide (1 ≤ p.heaterSetting.length) &&
    decide (p.start 0 .lpm0 = some 0x2400) && decide p.codes.Nodup

end Sys2Proof
end

