-- ==== Sys2Proof/Machine/Operands.lean ====
section
/-! DEFINITION. The command encoder (42_command_encoder.md): the frame of each command, the selection for an auto-mode
read, and the word count each use of a code expects (30_encoding.md R92). Combinational and stateless (R165). -/

namespace Sys2Proof.Machine

/-- `ENC(code)` (R140), format CMD (R80). -/
def enc (code : Word) : List Byte := be16 code

/-- The heater-configuration frame of a setting (R157), format CFG (R81): four bytes, and a checksum byte of the
setting only under HEATER_CFG_CRC. -/
def encHeaterCfg (p : Params) (setting : Word) : List Byte :=
  be16 (p.code .heaterCfg) ++ be16 setting ++
    if p.heaterCfgCrc then [checksum (hiByte setting) (loByte setting)] else []

/-- The read command of `SEL_AUTO_READ(target)` (R154), as a row of the opcode table. -/
def readRow : AutoReadTarget → Instr
  | .lastTempAndRH => .readTrh
  | .minTemp => .readTmin
  | .maxTemp => .readTmax
  | .minRH => .readRhmin
  | .maxRH => .readRhmax

/-- The word count of `SEL_AUTO_READ(target)` (R154). -/
def readCount : AutoReadTarget → Nat
  | .lastTempAndRH => 2
  | .minTemp | .maxTemp | .minRH | .maxRH => 1

/-- The word count of each step of an operation, in STEP order (R92, R187 to R199). The heater's raw write (step 1)
reads nothing. -/
def stepCounts : Op → List Nat
  | .oneShot _ => [2]
  | .autoStart _ _ => [0]
  | .autoStop => [0]
  | .autoRead t => [readCount t]
  | .heater 0 => [0]
  | .heater (_ + 1) => [0, 0, 0]
  | .readStatus false => [1]
  | .readStatus true => [1, 0]
  | .readSerial => [1, 1, 1]
  | .readMfrId => [1]
  | .softReset => [0]
  | .exec _ n => [n]
  | .checksum _ _ => [0]

/-- What step `k` of an operation does. -/
inductive Action where
  /-- Hand a command of the opcode table to the transport. -/
  | run (i : Instr)
  /-- Hand START(rate, m) to the transport, for a rate the opcode table has no row for (log 18). -/
  | start (rate : Nat) (m : LowPowerMode)
  /-- Hand a caller's code to the transactor with word count n (R187). -/
  | direct (cmd : Word) (n : Nat)
  /-- Compute a checksum (R187). -/
  | sum (b0 b1 : Byte)
  /-- The sequence has ended: emit the response (R184, R186). -/
  | finish
  /-- The operand has no entry in the parameter tables (R98). -/
  | noOperand
deriving DecidableEq, Repr

/-- The start command of an operation: its row where the table has one. -/
def startAction (r : Nat) (m : LowPowerMode) : Action :=
  match Instr.ofStart r m with
  | some i => .run i
  | none => .start r m

/-- Step 1 of `HEATER(level)` for a non-off level (R192). -/
def configAction (p : Params) (level : Nat) : Action :=
  match p.setting level with
  | some s => .run (.heaterCfg s)
  | none => .noOperand

/-- The step sequences of the operations (R187 to R199), with their early ends (R184). -/
def action (p : Params) : Op → Nat → Action
  | .oneShot m, 0 => startAction 0 m
  | .autoStart r m, 0 => startAction r m
  | .autoStop, 0 => .run .autoExit
  | .autoRead t, 0 => .run (readRow t)
  | .heater _, 0 => .run .heaterDis
  | .heater (l + 1), 1 => configAction p (l + 1)
  | .heater (_ + 1), 2 => .run .heaterEn
  | .readStatus _, 0 => .run .statusRead
  | .readStatus true, 1 => .run .statusClear
  | .readSerial, 0 => .run .serial0
  | .readSerial, 1 => .run .serial1
  | .readSerial, 2 => .run .serial2
  | .readMfrId, 0 => .run .mfrId
  | .softReset, 0 => .run .softReset
  | .exec cmd n, 0 => .direct cmd n
  | .checksum b0 b1, 0 => .sum b0 b1
  | .oneShot _, _ + 1 | .autoStart _ _, _ + 1 | .autoStop, _ + 1 | .autoRead _, _ + 1 | .heater 0, _ + 1
  | .heater (_ + 1), _ + 3 | .readStatus false, _ + 1 | .readStatus true, _ + 2 | .readSerial, _ + 3
  | .readMfrId, _ + 1 | .softReset, _ + 1 | .exec _ _, _ + 1 | .checksum _ _, _ + 1 => .finish

end Sys2Proof.Machine
end

