-- ==== Sys2Proof/Decode.lean ====
section
/-! DEFINITION. Decoding on the block's two sides, total on any bytes, and the encoder after it.
On the bus side a frame names a command (30_encoding.md R80, R81, R83, R101); the block itself never decodes (R96),
this is the reading R101 gives to a checker of its output. On the request side an op index names a request row (R90);
the spec gives the index only, the layout of the operands is a DESIGN CHOICE, safe (log 9). -/

namespace Sys2Proof

open Sys2Proof.Machine (wordOf hiByte loByte be16 enc encHeaterCfg checksum)

/-- Why bytes name no instruction. -/
inductive DecodeError where
  /-- The bytes end before the instruction does. -/
  | truncated
  /-- The code of a bus frame is that of no row (R101). -/
  | noRow (code : Word)
  /-- The fifth byte of a configuration frame is not its setting's checksum (R81; log 14). -/
  | badConfigCheck
  /-- An op index above 10 (R90). -/
  | reservedOp (index : Nat)
  /-- An auto-read target above 4 (R87). -/
  | reservedTarget (index : Nat)
  /-- A natural-number operand not in unary form (log 9). -/
  | badNatural
deriving DecidableEq, Repr

/-- The side of the block an instruction is seen on. -/
inductive Port where
  | bus
  | request
deriving DecidableEq, Repr

/-- What bytes name: a row of the opcode table, or START(rate, m) for a rate the table has no row for, in an
instantiation that has it (R101, R147; log 18). -/
inductive Command where
  | row (i : Instr)
  | start (rate : Nat) (m : LowPowerMode)
deriving DecidableEq, Repr

/-- The configuration frame after its code (R101): the setting, then the checksum byte of the variant (R81). -/
def decodeConfig (p : Params) : List Byte → Except DecodeError (Command × List Byte)
  | hi :: lo :: rest =>
    if p.heaterCfgCrc then
      match rest with
      | c :: rest' =>
        if c = checksum hi lo then .ok (.row (.heaterCfg (wordOf hi lo)), rest') else .error .badConfigCheck
      | [] => .error .truncated
    else .ok (.row (.heaterCfg (wordOf hi lo)), rest)
  | _ => .error .truncated

/-- The row of format CMD with a code (R101); by R95 at most one row has it. -/
def rowOfCode (p : Params) (code : Word) : Option Instr :=
  Instr.cmdRows.find? (fun i => decide (i.cmdCodeOf p = some code))

/-- The rate and mode of the start command with a code (R89, R93), among all the rates of the instantiation. -/
def startOfCode (p : Params) (code : Word) : Option (Nat × LowPowerMode) :=
  ((List.range p.starts.length).flatMap (fun r => LowPowerMode.all.map (fun m => (r, m)))).find?
    (fun x => decide (p.start x.1 x.2 = some code))

/-- The command with a code (R93, R101): its row where the table has one. -/
def commandOfCode (p : Params) (code : Word) : Option Command :=
  match rowOfCode p code with
  | some i => some (.row i)
  | none =>
    match startOfCode p code with
    | some (r, m) => some (.start r m)
    | none => none

/-- One emitted frame (R83, R101), and the bytes after it. -/
def decodeFrame (p : Params) : List Byte → Except DecodeError (Command × List Byte)
  | b0 :: b1 :: rest =>
    if wordOf b0 b1 = p.code .heaterCfg then decodeConfig p rest
    else
      match commandOfCode p (wordOf b0 b1) with
      | some c => .ok (c, rest)
      | none => .error (.noRow (wordOf b0 b1))
  | _ => .error .truncated

/-- A natural-number operand: so many bytes 0x01, then 0x00 (log 9). -/
def decodeNat : List Byte → Except DecodeError (Nat × List Byte)
  | [] => .error .truncated
  | b :: rest =>
    if b = 0 then .ok (0, rest)
    else if b = 1 then
      match decodeNat rest with
      | .ok (n, rest') => .ok (n + 1, rest')
      | .error e => .error e
    else .error .badNatural

/-- The low-power mode with an index (R86), read modulo 4: a 2-bit field. -/
def lpmOf (k : Nat) : LowPowerMode :=
  match k % 4 with
  | 0 => .lpm0
  | 1 => .lpm1
  | 2 => .lpm2
  | _ => .lpm3

/-- The auto-read target with an index (R87). -/
def targetOf : Nat → Option AutoReadTarget
  | 0 => some .lastTempAndRH
  | 1 => some .minTemp
  | 2 => some .maxTemp
  | 3 => some .minRH
  | 4 => some .maxRH
  | _ => none

/-- One request (R90): bits [3:0] of the first byte are the op index. The low-power mode is in bits [5:4], the target in
bits [6:4], the clear flag in bit [5]; bits no operand uses are not matched (the table's mask is 0xF); wider operands
follow in bytes, words high byte first, natural numbers in unary (log 9). -/
def decodeRequest : List Byte → Except DecodeError (Instr × List Byte)
  | [] => .error .truncated
  | b :: rest =>
    match b.toNat % 16 with
    | 0 => .ok (.reqOneShot (lpmOf (b.toNat / 16)), rest)
    | 1 =>
      match decodeNat rest with
      | .ok (r, rest') => .ok (.reqAutoStart r (lpmOf (b.toNat / 16)), rest')
      | .error e => .error e
    | 2 => .ok (.reqAutoStop, rest)
    | 3 =>
      match targetOf (b.toNat / 16 % 8) with
      | some t => .ok (.reqAutoRead t, rest)
      | none => .error (.reservedTarget (b.toNat / 16 % 8))
    | 4 =>
      match decodeNat rest with
      | .ok (l, rest') => .ok (.reqHeater l, rest')
      | .error e => .error e
    | 5 => .ok (.reqReadStatus (b.getLsbD 5), rest)
    | 6 => .ok (.reqReadSerial, rest)
    | 7 => .ok (.reqReadMfrId, rest)
    | 8 => .ok (.reqSoftReset, rest)
    | 9 =>
      match rest with
      | hi :: lo :: rest' =>
        match decodeNat rest' with
        | .ok (n, rest'') => .ok (.reqExec (wordOf hi lo) n, rest'')
        | .error e => .error e
      | _ => .error .truncated
    | 10 =>
      match rest with
      | b0 :: b1 :: rest' => .ok (.reqChecksum b0 b1, rest')
      | _ => .error .truncated
    | k => .error (.reservedOp k)

/-- One command on a side of the block, and the bytes after it. -/
def decode (p : Params) : Port → List Byte → Except DecodeError (Command × List Byte)
  | .bus, bytes => decodeFrame p bytes
  | .request, bytes =>
    match decodeRequest bytes with
    | .ok (i, rest) => .ok (.row i, rest)
    | .error e => .error e

/-- The side an instruction is seen on. -/
def Instr.port (i : Instr) : Port :=
  match i.opOf with
  | some _ => .request
  | none => .bus

/-- The side a command is seen on. -/
def Command.port : Command → Port
  | .row i => i.port
  | .start _ _ => .bus

/-- A command exists under an instantiation: its row does, or its rate is one the instantiation has and the table has no
row for. -/
def Command.wf (p : Params) : Command → Bool
  | .row i => i.wf p
  | .start r m => decide (r < p.starts.length) && (Instr.ofStart r m).isNone

/-- The unary form of a natural-number operand (log 9). -/
def encodeNat : Nat → List Byte
  | 0 => [0x00]
  | n + 1 => 0x01 :: encodeNat n

/-- The index of an auto-read target (R87). -/
def targetIndex : AutoReadTarget → Nat
  | .lastTempAndRH => 0
  | .minTemp => 1
  | .maxTemp => 2
  | .minRH => 3
  | .maxRH => 4

/-- The bytes of a request (R90; log 9). -/
def encodeOp : Op → List Byte
  | .oneShot m => [BitVec.ofNat 8 (0 + 16 * m.index.val)]
  | .autoStart r m => BitVec.ofNat 8 (1 + 16 * m.index.val) :: encodeNat r
  | .autoStop => [0x02]
  | .autoRead t => [BitVec.ofNat 8 (3 + 16 * targetIndex t)]
  | .heater l => 0x04 :: encodeNat l
  | .readStatus c => [if c then 0x25 else 0x05]
  | .readSerial => [0x06]
  | .readMfrId => [0x07]
  | .softReset => [0x08]
  | .exec cmd n => 0x09 :: (be16 cmd ++ encodeNat n)
  | .checksum b0 b1 => [0x0A, b0, b1]

/-- The bytes of a command's frame (R80, R81); none for a start row whose rate the instantiation does not have. -/
def encodeFrame (p : Params) (i : Instr) : Option (List Byte) :=
  match i with
  | .heaterCfg setting => some (encHeaterCfg p setting)
  | i =>
    match i.cmdCodeOf p with
    | some code => some (enc code)
    | none => none

/-- The bytes of an instruction, on its side. -/
def encode (p : Params) (i : Instr) : Option (List Byte) :=
  match i.opOf with
  | some op => some (encodeOp op)
  | none => encodeFrame p i

/-- The bytes of a command, on its side. -/
def encodeCommand (p : Params) : Command → Option (List Byte)
  | .row i => encode p i
  | .start r m =>
    match p.start r m with
    | some code => some (enc code)
    | none => none

/-- Byte `k` of a number, least significant first. -/
def byteAt (w k : Nat) : Byte := BitVec.ofNat 8 (w / 256 ^ k)

/-- The first three 16-bit words of a number as bytes on the bus, each word high byte first (R52). -/
def busBytes (w : Nat) : List Byte := [byteAt w 1, byteAt w 0, byteAt w 3, byteAt w 2, byteAt w 5, byteAt w 4]

/-- The first six bytes of a number on the request side, least significant first, and zeros after them. -/
def requestBytes (w : Nat) : List Byte :=
  [byteAt w 0, byteAt w 1, byteAt w 2, byteAt w 3, byteAt w 4, byteAt w 5, 0x00]

/-- The instruction of a word numbered as spec/opcode_table.json numbers it: a command row is one 16-bit word (the
reference codes of R93), a request row is matched on its low four bits. -/
def decodeTableWord (nbits w : Nat) : Option Instr :=
  let request : Option Instr :=
    match decodeRequest (requestBytes w) with
    | .ok (i, _) => some i
    | .error _ => none
  if 16 ≤ nbits then
    match decodeFrame Params.reference (busBytes w) with
    | .ok (.row i, _) => some i
    | .ok (.start _ _, _) | .error _ => request
  else request

end Sys2Proof
end

