-- ==== Sys2Proof/Machine/State.lean ====
section
/-! DEFINITION. The state of the block (10_state.md R30 to R43) as plain data, what a request answers (30_encoding.md
R91, 60_exceptions.md R220), and the state right after reset (70_reset_and_hazards.md R250). -/

namespace Sys2Proof.Machine

/-- RawDatum, the tagged result of a measurement read (R91). -/
inductive RawDatum where
  | tempAndRH (t rh : Word)
  | minTemp (w : Word)
  | maxTemp (w : Word)
  | minRH (w : Word)
  | maxRH (w : Word)
deriving DecidableEq, Repr

/-- The success value of a request (R91). -/
inductive Value where
  | unit
  | datum (d : RawDatum)
  | word (w : Word)
  | identity (w0 w1 w2 : Word)
  | words (ws : List Word)
  | check (b : Byte)
deriving DecidableEq, Repr

/-- The error kinds and their payloads (R220, R221). -/
inductive Error where
  | transportFailure (cause : TransportCause)
  | checksumMismatch
  | invalidInput
  | retriesExhausted (cause : TransportCause)
deriving DecidableEq, Repr

/-- The response to a request (R24). -/
inductive Response where
  | ok (v : Value)
  | err (e : Error)
deriving DecidableEq, Repr

/-- FAULT, a set of the two reasons of R229, by membership. -/
structure FaultSet where
  readUnwritten    : Bool
  reentrantRequest : Bool
deriving DecidableEq, Repr

/-- BUF's cells: (offset, byte) pairs, offsets strictly rising; an offset not listed is unwritten (R32, R36). -/
abbrev Memory := List Host.Cell

/-- One draw: how the transport answers the next bus primitive (R22). A read takes the first n of the six bytes, a
write takes none (log 3). -/
inductive Draw where
  | ok (bytes : Vector Byte 6)
  | err (cause : TransportCause)
deriving DecidableEq, Repr

/-- What a bus primitive answered (R22): the bytes read, none for a write, or the cause. -/
inductive Reply where
  | ok (bytes : List Byte)
  | err (cause : TransportCause)
deriving DecidableEq, Repr

/-- One environment primitive that has completed (R11), with its answer. -/
inductive Event where
  | write (addr : BusAddr) (frame : List Byte) (reply : Reply)
  | writeRead (addr : BusAddr) (frame : List Byte) (n : Nat) (reply : Reply)
  | read (addr : BusAddr) (n : Nat) (reply : Reply)
  | delay (ms : Nat)
deriving DecidableEq, Repr

/-- One move of the caller (R24; log 1): a request presented once the block is idle, a request presented at once
whatever BUSY says (the hazard of R260), or one step of the block in which the caller does nothing. -/
inductive CallerMove where
  | request (op : Op)
  | barge (op : Op)
  | hold
deriving DecidableEq, Repr

/-- Where inside step STEP of OP the block stands, at the granularity of R25. -/
inductive Phase where
  /-- Idle, or about to begin step STEP of OP (R184). -/
  | ready
  /-- Before the delay of READ_RETRY (R182), for n words, after `attempts` failed bare reads. -/
  | retryDelay (n attempts : Nat)
  /-- Before the bare read of READ_RETRY (R182). -/
  | retryRead (n attempts : Nat)
  /-- Before ACC_INIT and the first ACC_STEP of CHECK_WORD(i), in VALIDATE(n) (R115, R118, R120). -/
  | checkHi (n i : Nat)
  /-- Before the second ACC_STEP of CHECK_WORD(i) and its comparison. -/
  | checkLo (n i : Nat)
  /-- Before the second ACC_STEP of a CHECKSUM request (R187). -/
  | sumLo (b1 : Byte)
  /-- Before the emission of a response already decided (R186, R223). -/
  | respond (r : Response)
deriving DecidableEq, Repr

/-- The state of the block: the registers of R30, the constants of R40 to R42, the two fields R25 and R36 imply, and the
environment's moves. -/
structure State where
  /-- ACC (R31); none is "unwritten", the spec's own state. -/
  acc : Option Byte
  /-- BUF (R32). -/
  buf : Memory
  /-- WORDS (R33). -/
  words : List Word
  /-- OP (R34). -/
  op : Option Op
  /-- STEP (R34). -/
  stepNo : Nat
  /-- BUSY (R34). -/
  busy : Bool
  /-- RESULT (R35). -/
  result : Option Response
  /-- FAULT (R229). -/
  faults : FaultSet
  /-- The hardwired constants and the command ROM (R40, R42), bound at reset, written by nothing. -/
  params : Params
  /-- The position inside the current step (R25). -/
  phase : Phase
  /-- How many bytes of BUF a read of the current transaction wrote (R36, R262; log 7). -/
  live : Nat
  /-- The caller's moves not yet made (log 1). -/
  caller : List CallerMove
  /-- The transport's answers not yet given, the draws of R22 (log 1). -/
  answers : List Draw
  /-- What the transport does once `answers` is used up: fail for ever with a cause, or never answer (R227; log 2). -/
  thereafter : Option TransportCause
  /-- The environment events so far, oldest first (R23, R62; log 13). -/
  trace : List Event
deriving DecidableEq, Repr

/-- Why the machine stops with a fault. Both are raised only in states no run from reset reaches (log 12), so stopping
there is safe. -/
inductive Fault where
  /-- Raised by the accesses to BUF of Machine/Ops.lean: an offset of BUF that does not exist (R50). Safe. -/
  | outsideBuffer
  /-- Raised by Machine/Sequencer.lean: BUSY without an operation, or a sequence ended without the words its result is
  built from. No rule gives such a state a step. Safe. -/
  | noRule
deriving DecidableEq, Repr

/-- Why an instruction has no meaning. -/
inductive Refusal where
  /-- The instruction of this mnemonic is not modelled. Raised by no arm of exec. Safe. -/
  | notModelled (mnemonic : String)
  /-- Raised by a request, and by a start or configuration command, whose operand has no entry in the parameter tables:
  the spec's types exclude it (R98; log 11). Safe. -/
  | noSuchOperand
deriving DecidableEq, Repr

/-- What a step answers. -/
abbrev Out := Host.Outcome State Fault Refusal

/-- The machine right after reset (R250): every register as R30's reset column says, the parameters at their reference
values (PRESUMED, unsafe: log 5), no bus access yet (R251). The model's own fields are DESIGN CHOICE (log 17). -/
def State.reset : State where
  acc := none
  buf := []
  words := []
  op := none
  stepNo := 0
  busy := false
  result := none
  faults := ⟨false, false⟩
  params := Params.reference
  phase := .ready
  live := 0
  caller := []
  answers := []
  thereafter := none
  trace := []

end Sys2Proof.Machine
end

