-- ==== Sys2Proof/Machine/Memory.lean ====
section
/-! DEFINITION. The scratch buffer as a memory in one canonical form, and the response's condition code. -/

namespace Sys2Proof.Machine

/-- The byte at an offset, none where it is unwritten (R30). -/
def Memory.read : Memory → Nat → Option Byte
  | [], _ => none
  | (k, b) :: m, a => if k = a then some b else Memory.read m a

/-- Write one byte, keeping the offsets strictly rising. -/
def Memory.write : Memory → Nat → Byte → Memory
  | [], a, v => [(a, v)]
  | (k, b) :: m, a, v =>
    if a < k then (a, v) :: (k, b) :: m
    else if a = k then (a, v) :: m
    else (k, b) :: Memory.write m a v

/-- Write the bytes of a list from an offset on (`MemWrite`, R10). -/
def Memory.writeBytes : Memory → Nat → List Byte → Memory
  | m, _, [] => m
  | m, a, v :: vs => Memory.writeBytes (Memory.write m a v) (a + 1) vs

/-- Every listed offset is at least `lo`, below BUF_SIZE, and the offsets rise strictly. -/
def Memory.wfFrom : Nat → Memory → Bool
  | _, [] => true
  | lo, (k, _) :: m => decide (lo ≤ k) && decide (k < bufSize) && Memory.wfFrom (k + 1) m

/-- The canonical form of BUF: offsets 0..5 (R50), strictly rising, so that equal contents are equal lists. -/
def Memory.wf (m : Memory) : Bool := Memory.wfFrom 0 m

/-- The error code of R220. -/
def Error.code : Error → Nat
  | .transportFailure _ => 1
  | .checksumMismatch => 2
  | .invalidInput => 3
  | .retriesExhausted _ => 4

/-- The "condition code" of the last operation (R35, R220). -/
def Response.code : Response → Nat
  | .ok _ => 0
  | .err e => e.code

end Sys2Proof.Machine
end

