-- ==== Sys2Proof/Machine/Ops.lean ====
section
/-! DEFINITION. The shared operations over the registers, BUF and the environment (00_scope.md R10 to R12,
41_checksum.md R113 to R121, 43_operations.md R180 to R186), taking an error (60_exceptions.md R223) and emitting the
response (R186) among them. Every meaning is built from these. -/

namespace Sys2Proof.Machine

/-! ### Register updates -/

/-- `ACC <- b` (R113, R114). -/
def State.setAcc (s : State) (b : Byte) : State := { s with acc := some b }

/-- `FAULT <- FAULT + ReadUnwritten` (R36, R229). -/
def State.addReadUnwritten (s : State) : State := { s with faults := { s.faults with readUnwritten := true } }

/-- `FAULT <- FAULT + ReentrantRequest` (R260, R229). -/
def State.addReentrant (s : State) : State := { s with faults := { s.faults with reentrantRequest := true } }

/-- Move to a position inside the current step (R25). -/
def State.goto (s : State) (ph : Phase) : State := { s with phase := ph }

/-- Record a completed environment primitive (R11, R23). -/
def State.record (s : State) (e : Event) : State := { s with trace := s.trace ++ [e] }

/-- `WORDS <- WORDS ++ out` (R120). -/
def State.appendWords (s : State) (out : List Word) : State := { s with words := s.words ++ out }

/-- Start a transaction: no byte of BUF is the current transaction's yet (R36, R262). -/
def State.openTransaction (s : State) : State := { s with live := 0 }

/-- The running step completes (R184): `STEP <- STEP + 1`, and its transaction is over (R262). -/
def State.stepDone (s : State) : State := { s with stepNo := s.stepNo + 1, phase := .ready, live := 0 }

/-- Accept a request (R184): `OP <- op`, `STEP <- 0`, `WORDS <- []`, `BUSY <- true`. -/
def State.accept (s : State) (op : Op) : State :=
  { s with op := some op, stepNo := 0, words := [], busy := true, phase := .ready, live := 0 }

/-- Taking an error (R223 (a), (b)): the step writes nothing further, no later step runs, and the response `Err(e)` is
next. Emission does the rest (c), (d). There is no return operation (R226). -/
def State.raise (s : State) (e : Error) : State := { s with phase := .respond (.err e), live := 0 }

/-- Response emission (R186, R223 (c), (d)): `RESULT <- r`, `BUSY <- false`, `OP <- none`, `STEP <- 0`; WORDS stays. -/
def State.emit (s : State) (r : Response) : State :=
  { s with result := some r, busy := false, op := none, stepNo := 0, phase := .ready }

/-! ### The environment -/

/-- Consume the transport's next answer (R22); none while the transport has not answered (R227). -/
def State.draw (s : State) : Option (Draw × State) :=
  match s.answers with
  | d :: rest => some (d, { s with answers := rest })
  | [] =>
    match s.thereafter with
    | some c => some (.err c, s)
    | none => none

/-! ### Reading BUF -/

/-- What reading a register that may be unwritten gives (R36). -/
inductive Read (α : Type) where
  | value (a : α)
  /-- The register holds no value. -/
  | unwritten
  /-- The offset does not exist. -/
  | outside
deriving DecidableEq, Repr

/-- One byte of BUF: a value only if a read of the current transaction wrote it (R36). -/
def State.bufByte (s : State) (a : Nat) : Read Byte :=
  if bufSize ≤ a then .outside
  else if s.live ≤ a then .unwritten
  else
    match s.buf.read a with
    | some b => .value b
    | none => .unwritten

/-- `MemRead(3*i, 3)` (R118): word i's high byte, low byte and check byte (R53). -/
def State.wordBytes (s : State) (i : Nat) : Read (Byte × Byte × Byte) :=
  match s.bufByte (3 * i), s.bufByte (3 * i + 1), s.bufByte (3 * i + 2) with
  | .value h, .value l, .value c => .value (h, l, c)
  | .outside, _, _ | _, .outside, _ | _, _, .outside => .outside
  | _, _, _ => .unwritten

/-- `ASSEMBLE_WORD(i)` (R119). -/
def State.assembleWord (s : State) (i : Nat) : Read Word :=
  match s.bufByte (3 * i), s.bufByte (3 * i + 1) with
  | .value h, .value l => .value (wordOf h l)
  | .outside, _ | _, .outside => .outside
  | _, _ => .unwritten

/-- `[ASSEMBLE_WORD(i) for i in 0 .. n-1]` (R120). -/
def State.assembleWords (s : State) : Nat → Read (List Word)
  | 0 => .value []
  | n + 1 =>
    match s.assembleWords n, s.assembleWord n with
    | .value ws, .value w => .value (ws ++ [w])
    | .outside, _ | _, .outside => .outside
    | _, _ => .unwritten

/-! ### The checksum and validation -/

/-- `ACC_INIT` (R113). -/
def State.accInit (s : State) : State := s.setAcc crcInit

/-- A read of an unwritten register (R36): the reason joins FAULT, the read gives no value, and the block stays where it
is (DESIGN CHOICE, safe: log 8). -/
def readUnwritten (s : State) : Out := .next s.addReadUnwritten

/-- `ACC_STEP(b)` (R114), and how to go on with the new ACC. -/
def accStep (b : Byte) (s : State) (go : Byte → State → Out) : Out :=
  match s.acc with
  | some a => go (fold a b) (s.setAcc (fold a b))
  | none => readUnwritten s

/-- The end of VALIDATE(n) (R120): every word has passed, so all are assembled and appended, and the step completes. -/
def appendValidated (n : Nat) (s : State) : Out :=
  match s.assembleWords n with
  | .value out => .next (s.appendWords out).stepDone
  | .unwritten => readUnwritten s
  | .outside => .fault .outsideBuffer

/-- CHECK_WORD(i) up to its first accumulate (R115, R118). -/
def checkHi (n i : Nat) (s : State) : Out :=
  match s.wordBytes i with
  | .value (h, _, _) => accStep h s.accInit (fun _ s' => .next (s'.goto (.checkLo n i)))
  | .unwritten => readUnwritten s
  | .outside => .fault .outsideBuffer

/-- CHECK_WORD(i)'s second accumulate and its comparison (R115, R118), and VALIDATE(n)'s next move (R120): the next
word, the first mismatch, or the end. -/
def checkLo (n i : Nat) (s : State) : Out :=
  match s.wordBytes i with
  | .value (_, l, c) =>
    accStep l s (fun a s' =>
      if c = checksumOut a then
        if i + 1 < n then .next (s'.goto (.checkHi n (i + 1))) else appendValidated n s'
      else .next (s'.raise .checksumMismatch))
  | .unwritten => readUnwritten s
  | .outside => .fault .outsideBuffer

/-- A successful read of 3n bytes (R32, R181, R182): `MemWrite(0, 3n, r)`, then VALIDATE(n). -/
def deliver (n : Nat) (bytes : List Byte) (s : State) : Out :=
  if 3 * n ≤ bufSize then
    .next { s with buf := s.buf.writeBytes 0 bytes, live := 3 * n, phase := .checkHi n 0 }
  else .fault .outsideBuffer

/-! ### The transaction boundary -/

/-- `BusWrite(DEV_ADDR, f)` where a failure is final (R183, R185): the step completes, or TransportFailure is raised.
While the transport does not answer, the block waits (R227). -/
def busWrite (f : List Byte) (s : State) : Out :=
  match s.draw with
  | none => .next s
  | some (.ok _, s') => .next (s'.record (.write s.params.devAddr f (.ok []))).stepDone
  | some (.err c, s') => .next ((s'.record (.write s.params.devAddr f (.err c))).raise (.transportFailure c))

/-- `EXEC_WRITE(f)` (R183). -/
def execWrite (f : List Byte) (s : State) : Out := busWrite f s

/-- `RAW_WRITE(f)` (R185): past the transactor, with no word count, no read and no validation. -/
def rawWrite (f : List Byte) (s : State) : Out := busWrite f s

/-- `EXEC_READ(f, n)` (R181) up to the answer of the combined transaction; a failure's cause is dropped. -/
def execRead (f : List Byte) (n : Nat) (s : State) : Out :=
  match s.draw with
  | none => .next s
  | some (.ok r, s') =>
    deliver n (r.toList.take (3 * n))
      (s'.record (.writeRead s.params.devAddr f (3 * n) (.ok (r.toList.take (3 * n)))))
  | some (.err c, s') =>
    .next ((s'.record (.writeRead s.params.devAddr f (3 * n) (.err c))).openTransaction.goto (.retryDelay n 0))

/-- The delay before a bare read (R182): an event with no duration (R23). -/
def retryDelay (n attempts : Nat) (s : State) : Out :=
  .next ((s.record (.delay retryDelayMs)).goto (.retryRead n attempts))

/-- What a failed bare read leads to (R182): RetriesExhausted after K failures under `Bounded K`, else the loop again. -/
def retryFailed (n attempts : Nat) (c : TransportCause) (s : State) : State :=
  match s.params.retry with
  | .bounded k =>
    if attempts + 1 = k then s.raise (.retriesExhausted c) else s.goto (.retryDelay n (attempts + 1))
  | .unbounded => s.goto (.retryDelay n (attempts + 1))

/-- The bare read of READ_RETRY (R182). -/
def retryRead (n attempts : Nat) (s : State) : Out :=
  match s.draw with
  | none => .next s
  | some (.ok r, s') =>
    deliver n (r.toList.take (3 * n)) (s'.record (.read s.params.devAddr (3 * n) (.ok (r.toList.take (3 * n)))))
  | some (.err c, s') =>
    .next (retryFailed n attempts c (s'.record (.read s.params.devAddr (3 * n) (.err c))))

/-- `EXEC(f, n)` (R180): InvalidInput before any bus access, the write-only path, or the read path. -/
def transact (f : List Byte) (n : Nat) (s : State) : Out :=
  if maxWords < n then .next (s.raise .invalidInput)
  else if n = 0 then execWrite f s
  else execRead f n s

/-- A fixed command (R148 to R164) through the transactor, with its word count (R92). -/
def command (id : CommandId) (n : Nat) (s : State) : Out := transact (enc (s.params.code id)) n s

/-- A start-sampling command (R141) through the transactor; refused for a rate the instantiation does not have (R98). -/
def startCommand (r : Nat) (m : LowPowerMode) (n : Nat) (s : State) : Out :=
  match s.params.start r m with
  | some code => transact (enc code) n s
  | none => .refused .noSuchOperand

/-- The one-shot trigger (R142): its word count is that of its use (R92), 0 in AUTO_START (R98) and 2 in ONE_SHOT, and 2
too in the states where neither runs, which no run reaches (DESIGN CHOICE: log 10). -/
def triggerCommand (m : LowPowerMode) (s : State) : Out :=
  match s.op with
  | some (.autoStart _ _) => startCommand 0 m 0 s
  | _ => startCommand 0 m 2 s

/-! ### Requests -/

/-- A request on the request interface: accepted while the block is idle (R24, R184); presented while BUSY it is not
accepted, the running operation continues unchanged, and ReentrantRequest joins FAULT (R260). An operand outside its
type is refused (R98; log 11). -/
def present (op : Op) (s : State) : Out :=
  if op.wf s.params then
    if s.busy then .next s.addReentrant else .next (s.accept op)
  else .refused .noSuchOperand

/-- The first accumulate of a CHECKSUM request (R115, R187). -/
def sumHi (b0 b1 : Byte) (s : State) : Out := accStep b0 s.accInit (fun _ s' => .next (s'.goto (.sumLo b1)))

/-- Its second accumulate; the step completes with the checksum as the value (R115, R187). -/
def sumLo (b1 : Byte) (s : State) : Out :=
  accStep b1 s (fun a s' => .next (s'.stepDone.goto (.respond (.ok (.check (checksumOut a))))))

/-- The RawDatum variant of an auto-read target, built from the words (R154, R191). -/
def datumOf : AutoReadTarget → List Word → Option RawDatum
  | .lastTempAndRH, [t, rh] => some (.tempAndRH t rh)
  | .minTemp, [w] => some (.minTemp w)
  | .maxTemp, [w] => some (.maxTemp w)
  | .minRH, [w] => some (.minRH w)
  | .maxRH, [w] => some (.maxRH w)
  | _, _ => none

/-- The success value of an operation, built from WORDS (R91, R186). A CHECKSUM request's value is not built from
WORDS. -/
def successValue : Op → List Word → Option Value
  | .oneShot _, [t, rh] => some (.datum (.tempAndRH t rh))
  | .autoStart _ _, _ => some .unit
  | .autoStop, _ => some .unit
  | .autoRead target, ws =>
    match datumOf target ws with
    | some d => some (.datum d)
    | none => none
  | .heater _, _ => some .unit
  | .readStatus _, [w] => some (.word w)
  | .readSerial, [w0, w1, w2] => some (.identity w0 w1 w2)
  | .readMfrId, [w] => some (.word w)
  | .softReset, _ => some .unit
  | .exec _ _, ws => some (.words ws)
  | .oneShot _, _ | .readStatus _, _ | .readSerial, _ | .readMfrId, _ | .checksum _ _, _ => none

/-- The end of an operation's sequence (R184, R186): the success value is built and the response emitted. -/
def finish (op : Op) (s : State) : Out :=
  match successValue op s.words with
  | some v => .next (s.emit (.ok v))
  | none => .fault .noRule

end Sys2Proof.Machine
end

