-- ==== Sys2Proof/Machine/FixedCommands.lean ====
section
/-! DEFINITION. The fixed commands (42_command_encoder.md R148 to R164): one meaning per row of the opcode table, each the
step of an operation that hands the row's frame to the transactor, or for the heater's configuration frame past it. -/

namespace Sys2Proof.Machine

/-- AUTO_EXIT (R148): write only (R92). -/
def execAutoExit (s : State) : Out := command .autoExit 0 s

/-- READ_TRH (R149): 2 words read back (R92). -/
def execReadTrh (s : State) : Out := command .readTrh 2 s

/-- READ_TMIN (R150): 1 word read back (R92). -/
def execReadTmin (s : State) : Out := command .readTmin 1 s

/-- READ_TMAX (R151): 1 word read back (R92). -/
def execReadTmax (s : State) : Out := command .readTmax 1 s

/-- READ_RHMIN (R152): 1 word read back (R92). -/
def execReadRhmin (s : State) : Out := command .readRhmin 1 s

/-- READ_RHMAX (R153): 1 word read back (R92). -/
def execReadRhmax (s : State) : Out := command .readRhmax 1 s

/-- HEATER_DIS (R155): write only (R92). -/
def execHeaterDis (s : State) : Out := command .heaterDis 0 s

/-- HEATER_EN (R156): write only (R92). -/
def execHeaterEn (s : State) : Out := command .heaterEn 0 s

/-- HEATER_CFG (R157, R185): the raw write of the configuration frame, no word count, no read path. -/
def execHeaterCfg (setting : Word) (s : State) : Out := rawWrite (encHeaterCfg s.params setting) s

/-- STATUS_READ (R158): 1 word read back (R92). -/
def execStatusRead (s : State) : Out := command .statusRead 1 s

/-- STATUS_CLEAR (R159): write only (R92). -/
def execStatusClear (s : State) : Out := command .statusClear 0 s

/-- SERIAL_0 (R160): 1 word read back (R92). -/
def execSerial0 (s : State) : Out := command .serial0 1 s

/-- SERIAL_1 (R161): 1 word read back (R92). -/
def execSerial1 (s : State) : Out := command .serial1 1 s

/-- SERIAL_2 (R162): 1 word read back (R92). -/
def execSerial2 (s : State) : Out := command .serial2 1 s

/-- MFR_ID (R163): 1 word read back (R92). -/
def execMfrId (s : State) : Out := command .mfrId 1 s

/-- SOFT_RESET (R164): write only (R92), the device's reset and not the block's (R255). -/
def execSoftReset (s : State) : Out := command .softReset 0 s

end Sys2Proof.Machine
end

