-- ==== Sys2Proof/Machine/Requests.lean ====
section
/-! DEFINITION. The requests (30_encoding.md R90): one meaning per row of the opcode table. A request's own step is its
acceptance (R24, R25, R184); the steps of the accepted operation, up to its response, are the sequences of
`action` (Machine/Operands.lean) run by Machine/Sequencer.lean. -/

namespace Sys2Proof.Machine

/-- REQ_ONE_SHOT (R188). -/
def execReqOneShot (lpm : LowPowerMode) (s : State) : Out := present (.oneShot lpm) s

/-- REQ_AUTO_START (R189). -/
def execReqAutoStart (rate : Nat) (lpm : LowPowerMode) (s : State) : Out := present (.autoStart rate lpm) s

/-- REQ_AUTO_STOP (R190). -/
def execReqAutoStop (s : State) : Out := present .autoStop s

/-- REQ_AUTO_READ (R191). -/
def execReqAutoRead (target : AutoReadTarget) (s : State) : Out := present (.autoRead target) s

/-- REQ_HEATER (R192). -/
def execReqHeater (level : Nat) (s : State) : Out := present (.heater level) s

/-- REQ_READ_STATUS (R194). -/
def execReqReadStatus (clear : Bool) (s : State) : Out := present (.readStatus clear) s

/-- REQ_READ_SERIAL (R197). -/
def execReqReadSerial (s : State) : Out := present .readSerial s

/-- REQ_READ_MFR_ID (R198). -/
def execReqReadMfrId (s : State) : Out := present .readMfrId s

/-- REQ_SOFT_RESET (R199). -/
def execReqSoftReset (s : State) : Out := present .softReset s

/-- REQ_EXEC (R187). -/
def execReqExec (cmd : Word) (n : Nat) (s : State) : Out := present (.exec cmd n) s

/-- REQ_CHECKSUM (R187). -/
def execReqChecksum (b0 : Byte) (b1 : Byte) (s : State) : Out := present (.checksum b0 b1) s

end Sys2Proof.Machine
end

