-- ==== Sys2Proof/Machine/StartCommands.lean ====
section
/-! DEFINITION. The start-sampling commands (42_command_encoder.md R141 to R147): one meaning per row of the opcode
table, each the step of an operation that hands the row's frame to the transactor. -/

namespace Sys2Proof.Machine

/-- TRIG_OS_LPM0 (R142): START(0, 0), 2 words read back in ONE_SHOT, none in AUTO_START (R92). -/
def execTrigOsLpm0 (s : State) : Out := triggerCommand .lpm0 s

/-- TRIG_OS_LPM1 (R142): START(0, 1), 2 words read back in ONE_SHOT, none in AUTO_START (R92). -/
def execTrigOsLpm1 (s : State) : Out := triggerCommand .lpm1 s

/-- TRIG_OS_LPM2 (R142): START(0, 2), 2 words read back in ONE_SHOT, none in AUTO_START (R92). -/
def execTrigOsLpm2 (s : State) : Out := triggerCommand .lpm2 s

/-- TRIG_OS_LPM3 (R142): START(0, 3), 2 words read back in ONE_SHOT, none in AUTO_START (R92). -/
def execTrigOsLpm3 (s : State) : Out := triggerCommand .lpm3 s

/-- AUTO_0P5HZ_LPM0 (R143): START(1, 0), write only (R92). -/
def execAuto0p5HzLpm0 (s : State) : Out := startCommand 1 .lpm0 0 s

/-- AUTO_0P5HZ_LPM1 (R143): START(1, 1), write only (R92). -/
def execAuto0p5HzLpm1 (s : State) : Out := startCommand 1 .lpm1 0 s

/-- AUTO_0P5HZ_LPM2 (R143): START(1, 2), write only (R92). -/
def execAuto0p5HzLpm2 (s : State) : Out := startCommand 1 .lpm2 0 s

/-- AUTO_0P5HZ_LPM3 (R143): START(1, 3), write only (R92). -/
def execAuto0p5HzLpm3 (s : State) : Out := startCommand 1 .lpm3 0 s

/-- AUTO_1HZ_LPM0 (R144): START(2, 0), write only (R92). -/
def execAuto1HzLpm0 (s : State) : Out := startCommand 2 .lpm0 0 s

/-- AUTO_1HZ_LPM1 (R144): START(2, 1), write only (R92). -/
def execAuto1HzLpm1 (s : State) : Out := startCommand 2 .lpm1 0 s

/-- AUTO_1HZ_LPM2 (R144): START(2, 2), write only (R92). -/
def execAuto1HzLpm2 (s : State) : Out := startCommand 2 .lpm2 0 s

/-- AUTO_1HZ_LPM3 (R144): START(2, 3), write only (R92). -/
def execAuto1HzLpm3 (s : State) : Out := startCommand 2 .lpm3 0 s

/-- AUTO_2HZ_LPM0 (R145): START(3, 0), write only (R92). -/
def execAuto2HzLpm0 (s : State) : Out := startCommand 3 .lpm0 0 s

/-- AUTO_2HZ_LPM1 (R145): START(3, 1), write only (R92). -/
def execAuto2HzLpm1 (s : State) : Out := startCommand 3 .lpm1 0 s

/-- AUTO_2HZ_LPM2 (R145): START(3, 2), write only (R92). -/
def execAuto2HzLpm2 (s : State) : Out := startCommand 3 .lpm2 0 s

/-- AUTO_2HZ_LPM3 (R145): START(3, 3), write only (R92). -/
def execAuto2HzLpm3 (s : State) : Out := startCommand 3 .lpm3 0 s

/-- AUTO_4HZ_LPM0 (R146): START(4, 0), write only (R92). -/
def execAuto4HzLpm0 (s : State) : Out := startCommand 4 .lpm0 0 s

/-- AUTO_4HZ_LPM1 (R146): START(4, 1), write only (R92). -/
def execAuto4HzLpm1 (s : State) : Out := startCommand 4 .lpm1 0 s

/-- AUTO_4HZ_LPM2 (R146): START(4, 2), write only (R92). -/
def execAuto4HzLpm2 (s : State) : Out := startCommand 4 .lpm2 0 s

/-- AUTO_4HZ_LPM3 (R146): START(4, 3), write only (R92). -/
def execAuto4HzLpm3 (s : State) : Out := startCommand 4 .lpm3 0 s

/-- AUTO_10HZ_LPM0 (R147): START(5, 0), write only (R92). -/
def execAuto10HzLpm0 (s : State) : Out := startCommand 5 .lpm0 0 s

/-- AUTO_10HZ_LPM1 (R147): START(5, 1), write only (R92). -/
def execAuto10HzLpm1 (s : State) : Out := startCommand 5 .lpm1 0 s

/-- AUTO_10HZ_LPM2 (R147): START(5, 2), write only (R92). -/
def execAuto10HzLpm2 (s : State) : Out := startCommand 5 .lpm2 0 s

/-- AUTO_10HZ_LPM3 (R147): START(5, 3), write only (R92). -/
def execAuto10HzLpm3 (s : State) : Out := startCommand 5 .lpm3 0 s

end Sys2Proof.Machine
end

