-- ==== Sys2Proof/Machine/Dispatch.lean ====
section
/-! DEFINITION. The dispatch: one arm per row of the opcode table. -/

namespace Sys2Proof.Machine

def exec (i : Instr) (s : State) : Host.Outcome State Fault Refusal :=
  match i with
  | .trigOsLpm0 => Sys2Proof.Machine.execTrigOsLpm0 s
  | .trigOsLpm1 => Sys2Proof.Machine.execTrigOsLpm1 s
  | .trigOsLpm2 => Sys2Proof.Machine.execTrigOsLpm2 s
  | .trigOsLpm3 => Sys2Proof.Machine.execTrigOsLpm3 s
  | .auto0p5HzLpm0 => Sys2Proof.Machine.execAuto0p5HzLpm0 s
  | .auto0p5HzLpm1 => Sys2Proof.Machine.execAuto0p5HzLpm1 s
  | .auto0p5HzLpm2 => Sys2Proof.Machine.execAuto0p5HzLpm2 s
  | .auto0p5HzLpm3 => Sys2Proof.Machine.execAuto0p5HzLpm3 s
  | .auto1HzLpm0 => Sys2Proof.Machine.execAuto1HzLpm0 s
  | .auto1HzLpm1 => Sys2Proof.Machine.execAuto1HzLpm1 s
  | .auto1HzLpm2 => Sys2Proof.Machine.execAuto1HzLpm2 s
  | .auto1HzLpm3 => Sys2Proof.Machine.execAuto1HzLpm3 s
  | .auto2HzLpm0 => Sys2Proof.Machine.execAuto2HzLpm0 s
  | .auto2HzLpm1 => Sys2Proof.Machine.execAuto2HzLpm1 s
  | .auto2HzLpm2 => Sys2Proof.Machine.execAuto2HzLpm2 s
  | .auto2HzLpm3 => Sys2Proof.Machine.execAuto2HzLpm3 s
  | .auto4HzLpm0 => Sys2Proof.Machine.execAuto4HzLpm0 s
  | .auto4HzLpm1 => Sys2Proof.Machine.execAuto4HzLpm1 s
  | .auto4HzLpm2 => Sys2Proof.Machine.execAuto4HzLpm2 s
  | .auto4HzLpm3 => Sys2Proof.Machine.execAuto4HzLpm3 s
  | .auto10HzLpm0 => Sys2Proof.Machine.execAuto10HzLpm0 s
  | .auto10HzLpm1 => Sys2Proof.Machine.execAuto10HzLpm1 s
  | .auto10HzLpm2 => Sys2Proof.Machine.execAuto10HzLpm2 s
  | .auto10HzLpm3 => Sys2Proof.Machine.execAuto10HzLpm3 s
  | .autoExit => Sys2Proof.Machine.execAutoExit s
  | .readTrh => Sys2Proof.Machine.execReadTrh s
  | .readTmin => Sys2Proof.Machine.execReadTmin s
  | .readTmax => Sys2Proof.Machine.execReadTmax s
  | .readRhmin => Sys2Proof.Machine.execReadRhmin s
  | .readRhmax => Sys2Proof.Machine.execReadRhmax s
  | .heaterDis => Sys2Proof.Machine.execHeaterDis s
  | .heaterEn => Sys2Proof.Machine.execHeaterEn s
  | .heaterCfg setting => Sys2Proof.Machine.execHeaterCfg setting s
  | .statusRead => Sys2Proof.Machine.execStatusRead s
  | .statusClear => Sys2Proof.Machine.execStatusClear s
  | .serial0 => Sys2Proof.Machine.execSerial0 s
  | .serial1 => Sys2Proof.Machine.execSerial1 s
  | .serial2 => Sys2Proof.Machine.execSerial2 s
  | .mfrId => Sys2Proof.Machine.execMfrId s
  | .softReset => Sys2Proof.Machine.execSoftReset s
  | .reqOneShot lpm => Sys2Proof.Machine.execReqOneShot lpm s
  | .reqAutoStart rate lpm => Sys2Proof.Machine.execReqAutoStart rate lpm s
  | .reqAutoStop => Sys2Proof.Machine.execReqAutoStop s
  | .reqAutoRead target => Sys2Proof.Machine.execReqAutoRead target s
  | .reqHeater level => Sys2Proof.Machine.execReqHeater level s
  | .reqReadStatus clear => Sys2Proof.Machine.execReqReadStatus clear s
  | .reqReadSerial => Sys2Proof.Machine.execReqReadSerial s
  | .reqReadMfrId => Sys2Proof.Machine.execReqReadMfrId s
  | .reqSoftReset => Sys2Proof.Machine.execReqSoftReset s
  | .reqExec cmd n => Sys2Proof.Machine.execReqExec cmd n s
  | .reqChecksum b0 b1 => Sys2Proof.Machine.execReqChecksum b0 b1 s

end Sys2Proof.Machine
end

