-- ==== Sys2Proof/Machine/Sequencer.lean ====
section
/-! DEFINITION. The sequencing of an operation (43_operations.md R184): what the next step of the block is. It is either an
instruction to run (a request presented by the caller, or the command row that OP and STEP select), or a step inside
a transaction or at the end of an operation. -/

namespace Sys2Proof.Machine

/-- The next step of the block. -/
inductive Fetched where
  /-- Run this instruction at this state. -/
  | run (i : Instr) (s : State)
  /-- A step that is no instruction's. -/
  | internal (o : Out)

/-- Begin step STEP of OP (R184). -/
def fetchReady (s : State) : Fetched :=
  match s.op with
  | none => .internal (.fault .noRule)
  | some op =>
    match action s.params op s.stepNo with
    | .run i => .run i s
    | .start r m => .internal (startCommand r m 0 s)
    | .direct cmd n => .internal (transact (enc cmd) n s)
    | .sum b0 b1 => .internal (sumHi b0 b1 s)
    | .finish => .internal (finish op s)
    | .noOperand => .internal (.refused .noSuchOperand)

/-- The block's own next step; an idle block waits (R252). -/
def fetchBlock (s : State) : Fetched :=
  if s.busy then
    match s.phase with
    | .ready => fetchReady s
    | .retryDelay n attempts => .internal (retryDelay n attempts s)
    | .retryRead n attempts => .internal (retryRead n attempts s)
    | .checkHi n i => .internal (checkHi n i s)
    | .checkLo n i => .internal (checkLo n i s)
    | .sumLo b1 => .internal (sumLo b1 s)
    | .respond r => .internal (.next (s.emit r))
  else .internal (.next s)

/-- The caller's next move goes first (R24; log 1): a request waits for the idle block, a barging request does not. -/
def fetch (s : State) : Fetched :=
  match s.caller with
  | [] => fetchBlock s
  | .hold :: rest => fetchBlock { s with caller := rest }
  | .barge op :: rest => .run op.instr { s with caller := rest }
  | .request op :: rest => if s.busy then fetchBlock s else .run op.instr { s with caller := rest }

/-- The block at the beginning of step k of an operation (log 15), with the caller holding for one step, and with an
answer of the transport where none is due, so that the step does not wait. -/
def State.atCommand (s : State) (op : Op) (k : Nat) : State :=
  { s with
    op := some op, stepNo := k, busy := true, phase := .ready,
    caller := match s.caller with
      | [] => []
      | c => .hold :: c,
    answers := match s.answers, s.thereafter with
      | [], none => [.ok (Vector.replicate 6 0)]
      | as, _ => as }

/-- The operation and step that a command row is fetched for (R187 to R199); none for a request row. -/
def placeOf : Instr → Option (Op × Nat)
  | .trigOsLpm0 => some (.oneShot .lpm0, 0) | .trigOsLpm1 => some (.oneShot .lpm1, 0)
  | .trigOsLpm2 => some (.oneShot .lpm2, 0) | .trigOsLpm3 => some (.oneShot .lpm3, 0)
  | .auto0p5HzLpm0 => some (.autoStart 1 .lpm0, 0) | .auto0p5HzLpm1 => some (.autoStart 1 .lpm1, 0)
  | .auto0p5HzLpm2 => some (.autoStart 1 .lpm2, 0) | .auto0p5HzLpm3 => some (.autoStart 1 .lpm3, 0)
  | .auto1HzLpm0 => some (.autoStart 2 .lpm0, 0) | .auto1HzLpm1 => some (.autoStart 2 .lpm1, 0)
  | .auto1HzLpm2 => some (.autoStart 2 .lpm2, 0) | .auto1HzLpm3 => some (.autoStart 2 .lpm3, 0)
  | .auto2HzLpm0 => some (.autoStart 3 .lpm0, 0) | .auto2HzLpm1 => some (.autoStart 3 .lpm1, 0)
  | .auto2HzLpm2 => some (.autoStart 3 .lpm2, 0) | .auto2HzLpm3 => some (.autoStart 3 .lpm3, 0)
  | .auto4HzLpm0 => some (.autoStart 4 .lpm0, 0) | .auto4HzLpm1 => some (.autoStart 4 .lpm1, 0)
  | .auto4HzLpm2 => some (.autoStart 4 .lpm2, 0) | .auto4HzLpm3 => some (.autoStart 4 .lpm3, 0)
  | .auto10HzLpm0 => some (.autoStart 5 .lpm0, 0) | .auto10HzLpm1 => some (.autoStart 5 .lpm1, 0)
  | .auto10HzLpm2 => some (.autoStart 5 .lpm2, 0) | .auto10HzLpm3 => some (.autoStart 5 .lpm3, 0)
  | .autoExit => some (.autoStop, 0)
  | .readTrh => some (.autoRead .lastTempAndRH, 0)
  | .readTmin => some (.autoRead .minTemp, 0)
  | .readTmax => some (.autoRead .maxTemp, 0)
  | .readRhmin => some (.autoRead .minRH, 0)
  | .readRhmax => some (.autoRead .maxRH, 0)
  | .heaterDis => some (.heater 0, 0)
  | .heaterEn => some (.heater 1, 2)
  | .heaterCfg _ => some (.heater 1, 1)
  | .statusRead => some (.readStatus false, 0)
  | .statusClear => some (.readStatus true, 1)
  | .serial0 => some (.readSerial, 0)
  | .serial1 => some (.readSerial, 1)
  | .serial2 => some (.readSerial, 2)
  | .mfrId => some (.readMfrId, 0)
  | .softReset => some (.softReset, 0)
  | .reqOneShot _ | .reqAutoStart _ _ | .reqAutoStop | .reqAutoRead _ | .reqHeater _ | .reqReadStatus _
  | .reqReadSerial | .reqReadMfrId | .reqSoftReset | .reqExec _ _ | .reqChecksum _ _ => none

/-- The parameters with a setting as that of heater level 1 (log 15). -/
def Params.withSetting (p : Params) (setting : Word) : Params :=
  { p with heaterSetting := setting :: p.heaterSetting.drop 1 }

/-- A state whose next step runs an instruction (log 15): a request goes to the head of the caller's moves; a command row
is placed by BUSY, OP and STEP of an operation that has it, and the configuration row's setting operand in the
HEATER_SETTING entry it is fetched from. -/
def State.withInstr (s : State) (i : Instr) : State :=
  match i.opOf with
  | some op => { s with caller := .barge op :: s.caller }
  | none =>
    let s' : State :=
      match i with
      | .heaterCfg setting => { s with params := Params.withSetting s.params setting }
      | _ => s
    match placeOf i with
    | some (op, k) => s'.atCommand op k
    | none => s

end Sys2Proof.Machine
end

