-- ==== Sys2Proof/Machine/Step.lean ====
section
/-! DEFINITION. One step of the block (10_state.md R25), and how an instruction is placed where it is fetched. -/

namespace Sys2Proof.Machine

/-- One step: run the instruction that is due, or make the block's own next move. -/
def step (s : State) : Host.Outcome State Fault Refusal :=
  match fetch s with
  | .run i s' => exec i s'
  | .internal o => o

/-- The state with a table word's instruction where step fetches its next one (log 15); unchanged where the word is no
instruction. -/
def State.withFetchWord (s : State) (nbits w : Nat) : State :=
  match decodeTableWord nbits w with
  | some i => s.withInstr i
  | none => s

end Sys2Proof.Machine
end

