-- ==== Sys2Proof/Machine/Reference.lean ====
section
/-! DEFINITION. A whole operation at once, from the pseudocode of 43_operations.md read as a function of the transport's
answers: the response, the frames and delays in order, and the answers left over. It shares neither the registers nor
the steps of the machine, and computes its checksums bit by bit (41_checksum.md R116 law 1); the machine is stated to
refine it. `none`: the answers end before the operation does. -/

namespace Sys2Proof.Machine

/-- Eight bit steps. -/
def serialFold (a b : Byte) : Byte := Nat.repeat bstep 8 (a ^^^ b)

/-- The bit-serial checksum of R116 law 1. -/
def serialChecksum (b0 b1 : Byte) : Byte := [b0, b1].foldl serialFold 0xFF

/-- What a part of an operation came to: its result or error, its events, the answers left. -/
abbrev RefOut (α : Type) := Option (Except Error α × List Event × List Draw)

/-- `VALIDATE` over the bytes of a response (R120): the first mismatch loses every word. -/
def refValidate : List Byte → Except Error (List Word)
  | h :: l :: c :: rest =>
    if c = serialChecksum h l then
      match refValidate rest with
      | .ok ws => .ok (wordOf h l :: ws)
      | .error e => .error e
    else .error .checksumMismatch
  | _ => .ok []

/-- `READ_RETRY(3n)` (R182), after `a` failed bare reads. -/
def refRetry (p : Params) (n : Nat) : Nat → List Draw → RefOut (List Byte)
  | _, [] => none
  | _, .ok r :: ds =>
    some (.ok (r.toList.take (3 * n)),
      [.delay retryDelayMs, .read p.devAddr (3 * n) (.ok (r.toList.take (3 * n)))], ds)
  | a, .err c :: ds =>
    if p.retry = .bounded (a + 1) then
      some (.error (.retriesExhausted c), [.delay retryDelayMs, .read p.devAddr (3 * n) (.err c)], ds)
    else
      match refRetry p n (a + 1) ds with
      | some (out, es, rest) => some (out, .delay retryDelayMs :: .read p.devAddr (3 * n) (.err c) :: es, rest)
      | none => none

/-- A bus write whose failure is final (R183, R185). -/
def refWrite (p : Params) (f : List Byte) : List Draw → RefOut (List Word)
  | [] => none
  | .ok _ :: ds => some (.ok [], [.write p.devAddr f (.ok [])], ds)
  | .err c :: ds => some (.error (.transportFailure c), [.write p.devAddr f (.err c)], ds)

/-- `EXEC(f, n)` (R180, R181). -/
def refExec (p : Params) (f : List Byte) (n : Nat) (ds : List Draw) : RefOut (List Word) :=
  if 2 < n then some (.error .invalidInput, [], ds)
  else if n = 0 then refWrite p f ds
  else
    match ds with
    | [] => none
    | .ok r :: ds' =>
      some (refValidate (r.toList.take (3 * n)),
        [.writeRead p.devAddr f (3 * n) (.ok (r.toList.take (3 * n)))], ds')
    | .err c :: ds' =>
      match refRetry p n 0 ds' with
      | none => none
      | some (.error e, es, rest) => some (.error e, .writeRead p.devAddr f (3 * n) (.err c) :: es, rest)
      | some (.ok bytes, es, rest) => some (refValidate bytes, .writeRead p.devAddr f (3 * n) (.err c) :: es, rest)

/-- One step of an operation's pseudocode. -/
inductive RefStep where
  | exec (f : List Byte) (n : Nat)
  | raw (f : List Byte)
deriving DecidableEq, Repr

/-- Run one step. -/
def refStep (p : Params) : RefStep → List Draw → RefOut (List Word)
  | .exec f n, ds => refExec p f n ds
  | .raw f, ds => refWrite p f ds

/-- Run the steps in order (R184), gathering their words; the first error ends the sequence. -/
def refSteps (p : Params) : List RefStep → List Draw → RefOut (List Word)
  | [], ds => some (.ok [], [], ds)
  | st :: sts, ds =>
    match refStep p st ds with
    | none => none
    | some (.error e, es, ds') => some (.error e, es, ds')
    | some (.ok ws, es, ds') =>
      match refSteps p sts ds' with
      | none => none
      | some (.error e, es', ds'') => some (.error e, es ++ es', ds'')
      | some (.ok ws', es', ds'') => some (.ok (ws ++ ws'), es ++ es', ds'')

/-- A fixed command's frame (R148 to R164). -/
def refFrame (p : Params) (id : CommandId) : List Byte := be16 (p.code id)

/-- The steps of an operation (R187 to R199); none where an operand has no table entry, and for CHECKSUM. -/
def refSequence (p : Params) : Op → Option (List RefStep)
  | .oneShot m => (p.start 0 m).map (fun code => [.exec (be16 code) 2])
  | .autoStart r m => (p.start r m).map (fun code => [.exec (be16 code) 0])
  | .autoStop => some [.exec (refFrame p .autoExit) 0]
  | .autoRead .lastTempAndRH => some [.exec (refFrame p .readTrh) 2]
  | .autoRead .minTemp => some [.exec (refFrame p .readTmin) 1]
  | .autoRead .maxTemp => some [.exec (refFrame p .readTmax) 1]
  | .autoRead .minRH => some [.exec (refFrame p .readRhmin) 1]
  | .autoRead .maxRH => some [.exec (refFrame p .readRhmax) 1]
  | .heater 0 => some [.exec (refFrame p .heaterDis) 0]
  | .heater (l + 1) =>
    (p.setting (l + 1)).map (fun setting =>
      [.exec (refFrame p .heaterDis) 0, .raw (encHeaterCfg p setting), .exec (refFrame p .heaterEn) 0])
  | .readStatus false => some [.exec (refFrame p .statusRead) 1]
  | .readStatus true => some [.exec (refFrame p .statusRead) 1, .exec (refFrame p .statusClear) 0]
  | .readSerial =>
    some [.exec (refFrame p .serial0) 1, .exec (refFrame p .serial1) 1, .exec (refFrame p .serial2) 1]
  | .readMfrId => some [.exec (refFrame p .mfrId) 1]
  | .softReset => some [.exec (refFrame p .softReset) 0]
  | .exec cmd n => some [.exec (be16 cmd) n]
  | .checksum _ _ => none

/-- A whole operation: its response, its events and the answers left (R186 to R199). -/
def refOp (p : Params) (op : Op) (ds : List Draw) : Option (Response × List Event × List Draw) :=
  match op with
  | .checksum b0 b1 => some (.ok (.check (serialChecksum b0 b1)), [], ds)
  | op =>
    match refSequence p op with
    | none => none
    | some sts =>
      match refSteps p sts ds with
      | none => none
      | some (.error e, es, rest) => some (.err e, es, rest)
      | some (.ok ws, es, rest) =>
        match successValue op ws with
        | some v => some (.ok v, es, rest)
        | none => none

end Sys2Proof.Machine
end

