-- ==== Sys2Proof/Safety.lean ====
section
/-! DEFINITION. What counts as a sound state and a good run, in the terms the statements use. -/

namespace Sys2Proof.Machine

/-- A move the types of the spec allow (R98). -/
def CallerMove.wf (p : Params) : CallerMove → Bool
  | .request op => op.wf p
  | .barge op => op.wf p
  | .hold => true

/-- How many words the steps before step k of an operation have gathered (R33, R92). -/
def wordsBefore (op : Op) (k : Nat) : Nat := ((stepCounts op).take k).sum

/-- The requests that read at least one word (R92). -/
def Op.reads : Op → Bool
  | .oneShot _ | .autoRead _ | .readStatus _ | .readSerial | .readMfrId => true
  | .exec _ n => decide (n = 1 ∨ n = 2)
  | .autoStart _ _ | .autoStop | .heater _ | .softReset | .checksum _ _ => false

/-- The requests that send a frame whose failure is final (R183, R185). -/
def Op.writes : Op → Bool
  | .autoStart _ _ | .autoStop | .heater _ | .softReset | .readStatus true => true
  | .exec _ n => decide (n = 0)
  | .oneShot _ | .autoRead _ | .readStatus false | .readSerial | .readMfrId | .checksum _ _ => false

/-- Whether the instantiation bounds its retries (D11). -/
def RetryPolicy.isBounded : RetryPolicy → Bool
  | .bounded _ => true
  | .unbounded => false

/-- The table of R222: which request can end with which error. -/
def mayEndWith (p : Params) (op : Op) : Error → Bool
  | .transportFailure _ => Op.writes op
  | .checksumMismatch => Op.reads op
  | .invalidInput =>
    match op with
    | .exec _ n => decide (2 < n)
    | _ => false
  | .retriesExhausted _ => Op.reads op && RetryPolicy.isBounded p.retry

/-- The table of R91: the type of a request's success value; EXEC(cmd, n) gives exactly n words. -/
def valueFits : Op → Value → Bool
  | .oneShot _, .datum (.tempAndRH _ _) => true
  | .autoStart _ _, .unit => true
  | .autoStop, .unit => true
  | .autoRead .lastTempAndRH, .datum (.tempAndRH _ _) => true
  | .autoRead .minTemp, .datum (.minTemp _) => true
  | .autoRead .maxTemp, .datum (.maxTemp _) => true
  | .autoRead .minRH, .datum (.minRH _) => true
  | .autoRead .maxRH, .datum (.maxRH _) => true
  | .heater _, .unit => true
  | .readStatus _, .word _ => true
  | .readSerial, .identity _ _ _ => true
  | .readMfrId, .word _ => true
  | .softReset, .unit => true
  | .exec _ n, .words ws => decide (ws.length = n)
  | .checksum b0 b1, .check b => decide (b = checksum b0 b1)
  | _, _ => false

/-- A response R91 and R222 allow a request. -/
def responseFits (p : Params) (op : Op) : Response → Bool
  | .ok v => valueFits op v
  | .err e => mayEndWith p op e

/-- The attempts counter is below the bound of the retry loop (R182). -/
def attemptsFit (p : Params) (attempts : Nat) : Prop :=
  match p.retry with
  | .unbounded => True
  | .bounded k => attempts < k

/-- The block is inside a read step for n words: STEP selects it, n is a legal count of a read, and WORDS holds what the
steps before it gathered. -/
structure InRead (s : State) (op : Op) (n : Nat) : Prop where
  count : (stepCounts op)[s.stepNo]? = some n
  range : n = 1 ∨ n = 2
  words : s.words.length = wordsBefore op s.stepNo

/-- The bytes of an n-word response are in BUF and are the current transaction's (R32, R36). -/
structure HasResponse (s : State) (n : Nat) : Prop where
  live  : s.live = 3 * n
  bytes : ∀ a, a < 3 * n → ∃ b, s.buf.read a = some b

/-- The first i words of the response carry their checksums (R118, R120). -/
def Passed (s : State) (i : Nat) : Prop :=
  ∀ j, j < i → ∃ h l, s.buf.read (3 * j) = some h ∧ s.buf.read (3 * j + 1) = some l ∧
    s.buf.read (3 * j + 2) = some (checksum h l)

/-- What holds at each position inside a step of a running operation. -/
def phaseInv (s : State) (op : Op) : Prop :=
  match s.phase with
  | .ready =>
    s.stepNo ≤ (stepCounts op).length ∧ s.words.length = wordsBefore op s.stepNo ∧
      ∀ b0 b1, op = .checksum b0 b1 → s.stepNo = 0
  | .retryDelay n attempts => InRead s op n ∧ attemptsFit s.params attempts
  | .retryRead n attempts => InRead s op n ∧ attemptsFit s.params attempts
  | .checkHi n i => InRead s op n ∧ HasResponse s n ∧ i < n ∧ Passed s i
  | .checkLo n i =>
    InRead s op n ∧ HasResponse s n ∧ i < n ∧ Passed s i ∧
      ∃ h, s.buf.read (3 * i) = some h ∧ s.acc = some (fold crcInit h)
  | .sumLo b1 => ∃ b0, op = .checksum b0 b1 ∧ s.acc = some (fold crcInit b0)
  | .respond r => responseFits s.params op r = true

/-- The machine's invariant: a legal instantiation, BUF in canonical form, WORDS of at most three words (R30, R33), only
well-typed requests waiting, no read of an unwritten register so far, an idle block at rest, and a busy block inside its
operation. -/
structure BlockInv (s : State) : Prop where
  params   : s.params.wf = true
  buf      : s.buf.wf = true
  gathered : s.words.length ≤ 3
  caller   : ∀ m ∈ s.caller, CallerMove.wf s.params m = true
  written  : s.faults.readUnwritten = false
  idle     : s.busy = false → s.op = none ∧ s.stepNo = 0 ∧ s.phase = .ready
  running  : s.busy = true → ∃ op, s.op = some op ∧ op.wf s.params = true ∧ phaseInv s op

/-- FAULT is empty; a state where it is not is never a good final state (R229). -/
def FaultSet.isEmpty (f : FaultSet) : Bool := !f.readUnwritten && !f.reentrantRequest

/-- A good final state: no modelling fault, as R229 asks, and the block idle. The spec says only what is never good; that a
good final state is also idle, and that these two suffice, is the model's choice (DESIGN CHOICE, unsafe: log 19). -/
def goodFinal (s : State) : Bool := !s.busy && s.faults.isEmpty

/-- A caller that presents every request only once the block is idle, as R260 asks. -/
def Waiting (moves : List CallerMove) : Prop := ∀ m ∈ moves, ∃ op, m = .request op

/-- A command frame the block may send for a running operation (R22, R96): that of a code of R93, or the caller's own
code in an EXEC request (R187). -/
def commandFrameLegal (p : Params) (op : Option Op) (f : List Byte) : Prop :=
  (∃ code ∈ p.codes, f = [hiByte code, loByte code]) ∨
    ∃ cmd n, op = some (.exec cmd n) ∧ f = [hiByte cmd, loByte cmd]

/-- A configuration frame the block may send (R81, R99): only a HEATER request with a non-off level sends one. -/
def configFrameLegal (p : Params) (op : Option Op) (f : List Byte) : Prop :=
  ∃ l setting, op = some (.heater (l + 1)) ∧ p.heaterSetting[l]? = some setting ∧ f = encHeaterCfg p setting

/-- A read's answer delivers exactly the bytes asked for (R22). -/
def replyLegal (n : Nat) : Reply → Prop
  | .ok bytes => bytes.length = n
  | .err _ => True

/-- What the block may do to its environment while an operation runs (R22, R23, R58): only its own address, only the
frames of the command encoder, only reads of 3 or 6 bytes, only the delay of 1 ms. -/
def eventLegal (p : Params) (op : Option Op) : Event → Prop
  | .write addr f _ => addr = p.devAddr ∧ (commandFrameLegal p op f ∨ configFrameLegal p op f)
  | .writeRead addr f n reply =>
    addr = p.devAddr ∧ commandFrameLegal p op f ∧ (n = 3 ∨ n = 6) ∧ replyLegal n reply
  | .read addr n reply => addr = p.devAddr ∧ (n = 3 ∨ n = 6) ∧ replyLegal n reply
  | .delay ms => ms = retryDelayMs

/-- k steps of the machine, stopping at the first fault or refusal. -/
def run : Nat → State → Out
  | 0, s => .next s
  | k + 1, s =>
    match step s with
    | .next t => run k t
    | .fault r => .fault r
    | .refused r => .refused r

end Sys2Proof.Machine
end

