-- ==== Sys2Proof/Certificates/Slice0/Obligations.lean ====
section
/-! DEFINITION. The statements about the block, for the provers. A statement ranges over every instantiation of the
parameters (State.params) and every answer of the transport (State.answers, State.thereafter). -/

open Sys2Proof Sys2Proof.Machine

/-! ### Tables the statements quantify over, from the spec's own lists -/

/-- The fixed commands with word count 0 and their ids (R84, R92). -/
def Sys2Proof.Statements.fixedWriteRows : List (Instr × CommandId) :=
  [(.autoExit, .autoExit), (.heaterDis, .heaterDis), (.heaterEn, .heaterEn), (.statusClear, .statusClear),
   (.softReset, .softReset)]

/-- The fixed commands that are read back, their ids and word counts (R84, R92). -/
def Sys2Proof.Statements.fixedReadRows : List (Instr × CommandId × Nat) :=
  [(.readTrh, .readTrh, 2), (.readTmin, .readTmin, 1), (.readTmax, .readTmax, 1), (.readRhmin, .readRhmin, 1),
   (.readRhmax, .readRhmax, 1), (.statusRead, .statusRead, 1), (.serial0, .serial0, 1), (.serial1, .serial1, 1),
   (.serial2, .serial2, 1), (.mfrId, .mfrId, 1)]

/-- The auto-mode start commands with their rate and low-power mode (R143 to R147). -/
def Sys2Proof.Statements.autoStartRows : List (Instr × Nat × LowPowerMode) :=
  [(.auto0p5HzLpm0, 1, .lpm0), (.auto0p5HzLpm1, 1, .lpm1), (.auto0p5HzLpm2, 1, .lpm2), (.auto0p5HzLpm3, 1, .lpm3),
   (.auto1HzLpm0, 2, .lpm0), (.auto1HzLpm1, 2, .lpm1), (.auto1HzLpm2, 2, .lpm2), (.auto1HzLpm3, 2, .lpm3),
   (.auto2HzLpm0, 3, .lpm0), (.auto2HzLpm1, 3, .lpm1), (.auto2HzLpm2, 3, .lpm2), (.auto2HzLpm3, 3, .lpm3),
   (.auto4HzLpm0, 4, .lpm0), (.auto4HzLpm1, 4, .lpm1), (.auto4HzLpm2, 4, .lpm2), (.auto4HzLpm3, 4, .lpm3),
   (.auto10HzLpm0, 5, .lpm0), (.auto10HzLpm1, 5, .lpm1), (.auto10HzLpm2, 5, .lpm2), (.auto10HzLpm3, 5, .lpm3)]

/-- The one-shot trigger commands with their low-power mode (R142). -/
def Sys2Proof.Statements.triggerRows : List (Instr × LowPowerMode) :=
  [(.trigOsLpm0, .lpm0), (.trigOsLpm1, .lpm1), (.trigOsLpm2, .lpm2), (.trigOsLpm3, .lpm3)]

/-- CRC_TABLE as R112 lists it, one row of sixteen a line. -/
def Sys2Proof.Statements.crcListing : List Byte :=
  [0x00, 0x31, 0x62, 0x53, 0xC4, 0xF5, 0xA6, 0x97, 0xB9, 0x88, 0xDB, 0xEA, 0x7D, 0x4C, 0x1F, 0x2E] ++
  [0x43, 0x72, 0x21, 0x10, 0x87, 0xB6, 0xE5, 0xD4, 0xFA, 0xCB, 0x98, 0xA9, 0x3E, 0x0F, 0x5C, 0x6D] ++
  [0x86, 0xB7, 0xE4, 0xD5, 0x42, 0x73, 0x20, 0x11, 0x3F, 0x0E, 0x5D, 0x6C, 0xFB, 0xCA, 0x99, 0xA8] ++
  [0xC5, 0xF4, 0xA7, 0x96, 0x01, 0x30, 0x63, 0x52, 0x7C, 0x4D, 0x1E, 0x2F, 0xB8, 0x89, 0xDA, 0xEB] ++
  [0x3D, 0x0C, 0x5F, 0x6E, 0xF9, 0xC8, 0x9B, 0xAA, 0x84, 0xB5, 0xE6, 0xD7, 0x40, 0x71, 0x22, 0x13] ++
  [0x7E, 0x4F, 0x1C, 0x2D, 0xBA, 0x8B, 0xD8, 0xE9, 0xC7, 0xF6, 0xA5, 0x94, 0x03, 0x32, 0x61, 0x50] ++
  [0xBB, 0x8A, 0xD9, 0xE8, 0x7F, 0x4E, 0x1D, 0x2C, 0x02, 0x33, 0x60, 0x51, 0xC6, 0xF7, 0xA4, 0x95] ++
  [0xF8, 0xC9, 0x9A, 0xAB, 0x3C, 0x0D, 0x5E, 0x6F, 0x41, 0x70, 0x23, 0x12, 0x85, 0xB4, 0xE7, 0xD6] ++
  [0x7A, 0x4B, 0x18, 0x29, 0xBE, 0x8F, 0xDC, 0xED, 0xC3, 0xF2, 0xA1, 0x90, 0x07, 0x36, 0x65, 0x54] ++
  [0x39, 0x08, 0x5B, 0x6A, 0xFD, 0xCC, 0x9F, 0xAE, 0x80, 0xB1, 0xE2, 0xD3, 0x44, 0x75, 0x26, 0x17] ++
  [0xFC, 0xCD, 0x9E, 0xAF, 0x38, 0x09, 0x5A, 0x6B, 0x45, 0x74, 0x27, 0x16, 0x81, 0xB0, 0xE3, 0xD2] ++
  [0xBF, 0x8E, 0xDD, 0xEC, 0x7B, 0x4A, 0x19, 0x28, 0x06, 0x37, 0x64, 0x55, 0xC2, 0xF3, 0xA0, 0x91] ++
  [0x47, 0x76, 0x25, 0x14, 0x83, 0xB2, 0xE1, 0xD0, 0xFE, 0xCF, 0x9C, 0xAD, 0x3A, 0x0B, 0x58, 0x69] ++
  [0x04, 0x35, 0x66, 0x57, 0xC0, 0xF1, 0xA2, 0x93, 0xBD, 0x8C, 0xDF, 0xEE, 0x79, 0x48, 0x1B, 0x2A] ++
  [0xC1, 0xF0, 0xA3, 0x92, 0x05, 0x34, 0x67, 0x56, 0x78, 0x49, 0x1A, 0x2B, 0xBC, 0x8D, 0xDE, 0xEF] ++
  [0x82, 0xB3, 0xE0, 0xD1, 0x46, 0x77, 0x24, 0x15, 0x3B, 0x0A, 0x59, 0x68, 0xFF, 0xCE, 0x9D, 0xAC]

/-- The rows that write and read nothing back: the fixed write-only commands, the auto-mode starts, the configuration. -/
def Sys2Proof.Statements.WritesOnly (i : Instr) : Prop :=
  (∃ id, (i, id) ∈ Statements.fixedWriteRows) ∨ (∃ r m, (i, r, m) ∈ Statements.autoStartRows) ∨
    ∃ setting, i = .heaterCfg setting

/-! ### Reset and the checksum -/

/-- R250, R30's reset column: every register right after reset. -/
def Obligations.ResetRegistersAsTheSpecGives : Prop :=
  State.reset.acc = none ∧ (∀ a, State.reset.buf.read a = none) ∧ State.reset.words = [] ∧ State.reset.op = none ∧
    State.reset.stepNo = 0 ∧ State.reset.busy = false ∧ State.reset.result = none ∧
    State.reset.faults = ⟨false, false⟩ ∧ State.reset.params.heaterCfgCrc = false ∧
    State.reset.params.start 0 .lpm0 = some 0x2400

/-- R251: reset performs no bus access and no delay. -/
def Obligations.ResetPerformsNoBusAccess : Prop := State.reset.trace = []

/-- R110: the one-bit step, with its corner cases and its example. -/
def Obligations.BitStepShiftsAndSubtractsThePolynomial : Prop :=
  (∀ a : Byte, a.getLsbD 7 = true → bstep a = (a <<< 1) ^^^ 0x31) ∧
    (∀ a : Byte, a.getLsbD 7 = false → bstep a = a <<< 1) ∧
    bstep 0x00 = 0x00 ∧ bstep 0x80 = 0x31 ∧ bstep 0xFF = 0xCF ∧ bstep 0x81 = 0x33

/-- R112: the table R111 derives is the one listed. -/
def Obligations.TableIsTheOneListed : Prop :=
  Statements.crcListing.length = 256 ∧ ∀ i : Byte, Statements.crcListing[i.toNat]? = some (crcTable i)

/-- R115's closed form, corner cases and example, and the bit-serial form and check value of R116 (laws 1 and 2). -/
def Obligations.ChecksumAgreesWithItsBitSerialForm : Prop :=
  (∀ b0 b1 : Byte, checksum b0 b1 = crcTable (crcTable (0xFF ^^^ b0) ^^^ b1)) ∧
    (∀ b0 b1 : Byte, checksum b0 b1 = serialChecksum b0 b1) ∧
    [0x31, 0x32, 0x33, 0x34, 0x35, 0x36, 0x37, 0x38, 0x39].foldl fold 0xFF = (0xF7 : Byte) ∧
    checksum 0x00 0x00 = 0x81 ∧ checksum 0xFF 0xFF = 0xAC ∧ checksum 0xFF 0x00 = 0x00 ∧ checksum 0x5E 0xCD = 0x00 ∧
    checksum 0x00 0x01 = 0xB0 ∧ checksum 0x01 0x00 = 0x75 ∧ checksum 0x61 0xA8 = 0x65

/-- R116 law 3: a word's checksum is right exactly when folding all three bytes leaves zero. -/
def Obligations.ResidueIsZeroExactlyForGoodWords : Prop :=
  ∀ h l c : Byte, fold (fold (fold 0xFF h) l) c = 0 ↔ c = checksum h l

/-- R116 law 4. -/
def Obligations.ChecksumIsAffine : Prop :=
  ∀ a b c d : Byte, checksum (a ^^^ c) (b ^^^ d) = checksum a b ^^^ checksum c d ^^^ 0x81

/-- R115's corner case: each of the 256 checksum values is that of exactly one second byte, whatever the first. -/
def Obligations.EveryChecksumValueComesFromOneSecondByte : Prop :=
  ∀ b0 v : Byte, ∃ b1, checksum b0 b1 = v ∧ ∀ b1', checksum b0 b1' = v → b1' = b1

/-- R116 law 5: every error of 1, 2 or 3 flipped bits, and every burst of 8 or fewer bits, fails the check. Bits 23..16
of the error pattern fall on the high byte, 15..8 on the low byte, 7..0 on the check byte. -/
def Obligations.ShortErrorsAreDetected : Prop :=
  let fails : Byte → Byte → BitVec 24 → Prop := fun h l e =>
    checksum (h ^^^ e.extractLsb' 16 8) (l ^^^ e.extractLsb' 8 8) ≠ checksum h l ^^^ e.extractLsb' 0 8
  (∀ (h l : Byte) (i j k : Fin 24),
      fails h l (BitVec.twoPow 24 i.val ||| BitVec.twoPow 24 j.val ||| BitVec.twoPow 24 k.val)) ∧
    ∀ (h l b : Byte) (k : Fin 17), b ≠ 0 → fails h l (b.zeroExtend 24 <<< k.val)

/-! ### Encoding -/

/-- Decoding an encoded command gives it back, whatever follows, for every command that exists under a legal
instantiation: every instruction, and START(r, m) at the rates the opcode table has no rows for (R80, R81, R90, R101,
R147; the operand layout of requests is the model's, log 9). -/
def Obligations.DecodeOfEncodeIsTheInstruction : Prop :=
  ∀ (p : Params) (c : Command), p.wf = true → c.wf p = true →
    ∃ bytes, encodeCommand p c = some bytes ∧ ∀ rest, decode p c.port (bytes ++ rest) = .ok (c, rest)

/-- A decoded bus frame is exactly the frame of the command decoded (R101), no bit dropped, and the command exists under
the instantiation. -/
def Obligations.EncodeOfDecodedFrameIsTheFrame : Prop :=
  ∀ (p : Params) (bytes rest : List Byte) (c : Command), decode p .bus bytes = .ok (c, rest) →
    c.port = .bus ∧ c.wf p = true ∧ ∃ frame, encodeCommand p c = some frame ∧ bytes = frame ++ rest

/-- Words of the opcode table (R93, R94, R90), each written out from its row. The codes are those of the reference
instantiation (PRESUMED, log 5), 0x2400 apart; the operands of the requests 0x3 and 0x9 are read as the model lays them
out (DESIGN CHOICE, log 9). -/
def Obligations.TableWordsDecodeToTheirRows : Prop :=
  decodeTableWord 16 0x2400 = some .trigOsLpm0 ∧ decodeTableWord 16 0x2024 = some .auto0p5HzLpm1 ∧
    decodeTableWord 16 0x2130 = some .auto1HzLpm0 ∧ decodeTableWord 16 0x222B = some .auto2HzLpm2 ∧
    decodeTableWord 16 0x23FF = some .auto4HzLpm3 ∧ decodeTableWord 16 0x2737 = some .auto10HzLpm0 ∧
    decodeTableWord 16 0x3093 = some .autoExit ∧ decodeTableWord 16 0xE002 = some .readTmin ∧
    decodeTableWord 16 0x306E = some (.heaterCfg 0x0000) ∧ decodeTableWord 16 0xF32D = some .statusRead ∧
    decodeTableWord 8 0x3 = some (.reqAutoRead .lastTempAndRH) ∧ decodeTableWord 8 0x9 = some (.reqExec 0x0000 0) ∧
    decodeTableWord 16 0xFFFF = none

/-- R166: under R95, distinct selections of a command give distinct frames. -/
def Obligations.DistinctSelectionsGiveDistinctFrames : Prop :=
  ∀ p : Params, p.wf = true →
    (∀ id id', enc (p.code id) = enc (p.code id') → id = id') ∧
    (∀ id r m code, p.start r m = some code → enc (p.code id) ≠ enc code) ∧
    ∀ r m r' m' code code', p.start r m = some code → p.start r' m' = some code' → enc code = enc code' →
      r = r' ∧ m = m'

/-- R94, R140, R157: the source's one-shot frame under every legal instantiation; the high byte goes first; and the
configuration frame, of 4 bytes, or of 5 with the setting's checksum last under HEATER_CFG_CRC. -/
def Obligations.FramesAreBigEndian : Prop :=
  (∀ p : Params, p.wf = true → ∃ code, p.start 0 .lpm0 = some code ∧ enc code = [0x24, 0x00]) ∧
    (∀ code : Word, enc code = [code.extractLsb' 8 8, code.extractLsb' 0 8]) ∧
    (∀ (p : Params) (setting : Word), p.heaterCfgCrc = false →
      encHeaterCfg p setting = enc (p.code .heaterCfg) ++ enc setting ∧ (encHeaterCfg p setting).length = 4) ∧
    ∀ (p : Params) (setting : Word), p.heaterCfgCrc = true →
      encHeaterCfg p setting = enc (p.code .heaterCfg) ++ enc setting ++
          [checksum (setting.extractLsb' 8 8) (setting.extractLsb' 0 8)] ∧
        (encHeaterCfg p setting).length = 5

/-! ### What a command row does -/

/-- The fixed write-only commands (R148, R155, R156, R159, R164, R183): when the transport accepts the frame, the step
completes, one bus write of the command's frame has happened, and nothing else has changed. -/
def Obligations.FixedWriteCommandsComplete : Prop :=
  ∀ x ∈ Statements.fixedWriteRows, ∀ (s : State) (r : Vector Byte 6) (s' : State),
    s.draw = some (.ok r, s') →
      exec x.1 s = .next { s' with
        trace := s.trace ++ [.write s.params.devAddr (be16 (s.params.code x.2)) (.ok [])]
        stepNo := s.stepNo + 1, phase := .ready, live := 0 }

/-- The auto-mode start commands (R143 to R147): one bus write of START(r, m), no read. -/
def Obligations.AutoStartCommandsComplete : Prop :=
  ∀ x ∈ Statements.autoStartRows, ∀ (s : State) (code : Word) (r : Vector Byte 6) (s' : State),
    s.params.start x.2.1 x.2.2 = some code → s.draw = some (.ok r, s') →
      exec x.1 s = .next { s' with
        trace := s.trace ++ [.write s.params.devAddr (be16 code) (.ok [])]
        stepNo := s.stepNo + 1, phase := .ready, live := 0 }

/-- The one-shot trigger commands (R142, R92): the frame is sent and six bytes are read into BUF, in ONE_SHOT and, the
model's choice (DESIGN CHOICE, log 10), in states where no operation that has the row runs; in AUTO_START it is only
sent. -/
def Obligations.TriggerCommandsCompleteByTheirUse : Prop :=
  ∀ x ∈ Statements.triggerRows, ∀ (s : State) (code : Word) (r : Vector Byte 6) (s' : State),
    s.params.start 0 x.2 = some code → s.draw = some (.ok r, s') →
      ((∀ k m, s.op ≠ some (.autoStart k m)) →
        exec x.1 s = .next { s' with
          trace := s.trace ++ [.writeRead s.params.devAddr (be16 code) 6 (.ok r.toList)]
          buf := s.buf.writeBytes 0 r.toList
          live := 6, phase := .checkHi 2 0 }) ∧
      (∀ k m, s.op = some (.autoStart k m) →
        exec x.1 s = .next { s' with
          trace := s.trace ++ [.write s.params.devAddr (be16 code) (.ok [])]
          stepNo := s.stepNo + 1, phase := .ready, live := 0 })

/-- The read commands (R149 to R153, R158, R160 to R163, R181): the frame is sent, 3n bytes are read into BUF, and
validation begins. -/
def Obligations.ReadCommandsComplete : Prop :=
  ∀ x ∈ Statements.fixedReadRows, ∀ (s : State) (r : Vector Byte 6) (s' : State),
    s.draw = some (.ok r, s') →
      exec x.1 s = .next { s' with
        trace := s.trace ++ [.writeRead s.params.devAddr (be16 (s.params.code x.2.1)) (3 * x.2.2)
          (.ok (r.toList.take (3 * x.2.2)))]
        buf := s.buf.writeBytes 0 (r.toList.take (3 * x.2.2))
        live := 3 * x.2.2, phase := .checkHi x.2.2 0 }

/-- The heater configuration (R185): one raw bus write of the configuration frame, of 4 bytes or 5 in the variant, nothing
read, BUF not touched; a failure raises TransportFailure. -/
def Obligations.HeaterConfigurationCompletes : Prop :=
  ∀ (setting : Word) (s : State),
    (encHeaterCfg s.params setting).length = (if s.params.heaterCfgCrc then 5 else 4) ∧
    (∀ r s', s.draw = some (.ok r, s') →
      exec (.heaterCfg setting) s = .next { s' with
        trace := s.trace ++ [.write s.params.devAddr (encHeaterCfg s.params setting) (.ok [])]
        stepNo := s.stepNo + 1, phase := .ready, live := 0, buf := s.buf }) ∧
    ∀ c s', s.draw = some (.err c, s') →
      exec (.heaterCfg setting) s = .next { s' with
        trace := s.trace ++ [.write s.params.devAddr (encHeaterCfg s.params setting) (.err c)]
        phase := .respond (.err (.transportFailure c)), live := 0, buf := s.buf }

/-- R183, R185, R223: a failed bus write is never retried; it raises TransportFailure with the transport's cause, and
the step writes nothing further. -/
def Obligations.FailedWritesRaiseTransportFailure : Prop :=
  ∀ (s : State) (c : TransportCause) (s' : State), s.draw = some (.err c, s') →
    let failed : List Byte → Out := fun f => .next { s' with
      trace := s.trace ++ [.write s.params.devAddr f (.err c)]
      phase := .respond (.err (.transportFailure c)), live := 0 }
    (∀ x ∈ Statements.fixedWriteRows, exec x.1 s = failed (be16 (s.params.code x.2))) ∧
    (∀ x ∈ Statements.autoStartRows, ∀ code, s.params.start x.2.1 x.2.2 = some code →
      exec x.1 s = failed (be16 code)) ∧
    (∀ x ∈ Statements.triggerRows, ∀ code k m, s.params.start 0 x.2 = some code →
      s.op = some (.autoStart k m) → exec x.1 s = failed (be16 code)) ∧
    ∀ setting, exec (.heaterCfg setting) s = failed (encHeaterCfg s.params setting)

/-- R181: a failed combined transaction is never surfaced; its cause is dropped and the retry loop begins. -/
def Obligations.FailedReadsFallBackToBareReads : Prop :=
  ∀ (s : State) (c : TransportCause) (s' : State), s.draw = some (.err c, s') →
    let retried : List Byte → Nat → Out := fun f n => .next { s' with
      trace := s.trace ++ [.writeRead s.params.devAddr f (3 * n) (.err c)]
      live := 0, phase := .retryDelay n 0 }
    (∀ x ∈ Statements.fixedReadRows, exec x.1 s = retried (be16 (s.params.code x.2.1)) x.2.2) ∧
    ∀ x ∈ Statements.triggerRows, ∀ code, s.params.start 0 x.2 = some code →
      (∀ k m, s.op ≠ some (.autoStart k m)) → exec x.1 s = retried (be16 code) 2

/-- R22: a bus primitive is answered by the transport's next draw, or, those used up, by what it does for ever after. -/
def Obligations.DrawIsTheTransportsNextAnswer : Prop :=
  ∀ s : State,
    (∀ d rest, s.answers = d :: rest → s.draw = some (d, { s with answers := rest })) ∧
    (∀ c, s.answers = [] → s.thereafter = some c → s.draw = some (.err c, s)) ∧
    (s.answers = [] → s.thereafter = none → s.draw = none)

/-- R227: while the transport does not answer, a command and a bare read wait and nothing changes (log 2). -/
def Obligations.BlockWaitsForASilentTransport : Prop :=
  ∀ s : State, s.draw = none →
    (∀ x ∈ Statements.fixedWriteRows, exec x.1 s = .next s) ∧
    (∀ x ∈ Statements.fixedReadRows, exec x.1 s = .next s) ∧
    (∀ setting, exec (.heaterCfg setting) s = .next s) ∧
    (∀ x ∈ Statements.autoStartRows, ∀ code, s.params.start x.2.1 x.2.2 = some code → exec x.1 s = .next s) ∧
    (∀ x ∈ Statements.triggerRows, ∀ code, s.params.start 0 x.2 = some code → exec x.1 s = .next s) ∧
    ∀ n a, s.busy = true → Waiting s.caller → s.phase = .retryRead n a → step s = .next s

/-- Frame of the rows that only write: whatever the transport answers, no register but STEP changes, no byte of BUF, and
nothing the caller or the construction gave. -/
def Obligations.WriteCommandsFrame : Prop :=
  ∀ (i : Instr) (s t : State), Statements.WritesOnly i → exec i s = .next t →
    (∀ a, t.buf.read a = s.buf.read a) ∧ t.acc = s.acc ∧ t.words = s.words ∧ t.op = s.op ∧ t.busy = s.busy ∧
      t.result = s.result ∧ t.faults = s.faults ∧ t.params = s.params ∧ t.caller = s.caller ∧
      t.thereafter = s.thereafter

/-- Frame of the rows that read n words back: BUF may change at offsets below 3n only; no register changes, STEP
included. -/
def Obligations.ReadCommandsFrame : Prop :=
  ∀ (x : Instr × CommandId × Nat) (s t : State), x ∈ Statements.fixedReadRows → exec x.1 s = .next t →
    (∀ a, 3 * x.2.2 ≤ a → t.buf.read a = s.buf.read a) ∧ t.acc = s.acc ∧ t.words = s.words ∧ t.op = s.op ∧
      t.stepNo = s.stepNo ∧ t.busy = s.busy ∧ t.result = s.result ∧ t.faults = s.faults ∧ t.params = s.params ∧
      t.caller = s.caller ∧ t.thereafter = s.thereafter

/-- Frame of the one-shot trigger rows: in AUTO_START STEP may change and no byte of BUF; else BUF may change, below
offset 6, and not STEP. -/
def Obligations.TriggerCommandsFrame : Prop :=
  ∀ (x : Instr × LowPowerMode) (s t : State), x ∈ Statements.triggerRows → exec x.1 s = .next t →
    (∀ a, 6 ≤ a ∨ (∃ k m, s.op = some (.autoStart k m)) → t.buf.read a = s.buf.read a) ∧ t.acc = s.acc ∧
      t.words = s.words ∧ t.op = s.op ∧ ((∀ k m, s.op ≠ some (.autoStart k m)) → t.stepNo = s.stepNo) ∧
      t.busy = s.busy ∧ t.result = s.result ∧ t.faults = s.faults ∧ t.params = s.params ∧ t.caller = s.caller ∧
      t.thereafter = s.thereafter

/-- Where an instruction has no meaning it is refused by name: a start row or a request whose operand the instantiation
does not have (R98, R147; DESIGN CHOICE, log 11). -/
def Obligations.OperandsOutsideTheirTypesAreRefused : Prop :=
  (∀ x ∈ Statements.triggerRows, ∀ s : State, s.params.starts = [] → exec x.1 s = .refused .noSuchOperand) ∧
    (∀ x ∈ Statements.autoStartRows, ∀ s : State, s.params.starts.length ≤ x.2.1 →
      exec x.1 s = .refused .noSuchOperand) ∧
    ∀ (s : State) (m : LowPowerMode) (k : Nat),
      (s.params.starts.length ≤ k → exec (.reqAutoStart k m) s = .refused .noSuchOperand) ∧
      (s.params.heaterSetting.length < k → exec (.reqHeater k) s = .refused .noSuchOperand)

/-! ### Requests -/

/-- R24, R184: an idle block accepts every request: OP holds it, STEP is 0, WORDS is empty, BUSY is set, and nothing
else of R30 changes. -/
def Obligations.IdleBlockAcceptsEveryRequest : Prop :=
  ∀ s : State, s.busy = false →
    let accepted : Op → Out := fun op =>
      .next { s with op := some op, stepNo := 0, words := [], busy := true, phase := .ready, live := 0 }
    (∀ m, exec (.reqOneShot m) s = accepted (.oneShot m)) ∧
    (∀ r m, r < s.params.starts.length → exec (.reqAutoStart r m) s = accepted (.autoStart r m)) ∧
    exec .reqAutoStop s = accepted .autoStop ∧
    (∀ t, exec (.reqAutoRead t) s = accepted (.autoRead t)) ∧
    (∀ l, l ≤ s.params.heaterSetting.length → exec (.reqHeater l) s = accepted (.heater l)) ∧
    (∀ c, exec (.reqReadStatus c) s = accepted (.readStatus c)) ∧
    exec .reqReadSerial s = accepted .readSerial ∧
    exec .reqReadMfrId s = accepted .readMfrId ∧
    exec .reqSoftReset s = accepted .softReset ∧
    (∀ cmd n, exec (.reqExec cmd n) s = accepted (.exec cmd n)) ∧
    ∀ b0 b1, exec (.reqChecksum b0 b1) s = accepted (.checksum b0 b1)

/-- R260, R229: a request presented while BUSY is refused: the running operation is unchanged, ReentrantRequest joins
FAULT, it stays there in every later state of the run, and so none is a good final state. (What else `goodFinal` asks,
that the block is idle, is DESIGN CHOICE, log 19, and is not used here: FAULT alone decides.) -/
def Obligations.RequestWhileBusyIsRefused : Prop :=
  ∀ (i : Instr) (op : Op) (s : State), i.opOf = some op → op.wf s.params = true → s.busy = true →
    ∃ t, exec i s = .next t ∧ t = { s with faults := ⟨s.faults.readUnwritten, true⟩ } ∧
      ∀ k u, run k t = .next u → u.faults.reentrantRequest = true ∧ goodFinal u = false

/-- Frame of the requests: no request's own step touches BUF, ACC, RESULT, the parameters or the bus. -/
def Obligations.RequestsFrame : Prop :=
  ∀ (i : Instr) (op : Op) (s t : State), i.opOf = some op → exec i s = .next t →
    (∀ a, t.buf.read a = s.buf.read a) ∧ t.acc = s.acc ∧ t.result = s.result ∧ t.params = s.params ∧
      t.trace = s.trace ∧ t.answers = s.answers ∧ t.thereafter = s.thereafter ∧ t.caller = s.caller ∧
      t.faults.readUnwritten = s.faults.readUnwritten ∧ t.busy = true

/-! ### The step and the sequences -/

/-- A step runs the decoded instruction: a word placed where step fetches is run by exec, at the state with the caller's
move taken. For a request that state is the one given; for a command row it is the beginning of a step of an
operation that has the row (log 15). -/
def Obligations.StepRunsTheDecodedInstruction : Prop :=
  ∀ (s : State) (nbits w : Nat) (i : Instr), decodeTableWord nbits w = some i →
    (∀ op, i.opOf = some op → step (s.withFetchWord nbits w) = exec i s) ∧
    (i.opOf = none →
      ∃ op k t, placeOf i = some (op, k) ∧ step (s.withFetchWord nbits w) = exec i t ∧
        t.op = some op ∧ t.stepNo = k ∧ t.busy = true ∧ t.phase = .ready ∧ t.caller = s.caller ∧
        t.acc = s.acc ∧ t.buf = s.buf ∧ t.words = s.words ∧ t.result = s.result ∧ t.faults = s.faults ∧
        t.trace = s.trace)

/-- R24: step takes the caller's request when the block is idle, and an early one at once; a busy block leaves a waiting
caller's moves alone. -/
def Obligations.StepTakesTheCallersRequest : Prop :=
  (∀ (s : State) (op : Op) (rest : List CallerMove), s.caller = .request op :: rest → s.busy = false →
      step s = exec op.instr { s with caller := rest }) ∧
    (∀ (s : State) (op : Op) (rest : List CallerMove), s.caller = .barge op :: rest →
      step s = exec op.instr { s with caller := rest }) ∧
    ∀ s t : State, s.busy = true → Waiting s.caller → step s = .next t → t.caller = s.caller

/-- R252: an idle block that is asked nothing waits; that waiting is an unchanged state is the model's choice (DESIGN
CHOICE, log 2). -/
def Obligations.IdleBlockWaits : Prop :=
  ∀ s : State, s.busy = false → s.caller = [] → step s = .next s

/-- R184, R188 to R199: the command that OP and STEP select, for every step of the nine logical operations. A start
command at a rate the opcode table has no rows for is in StartsWithoutARowAreWritten. -/
def Obligations.OpAndStepSelectTheCommand : Prop :=
  ∀ s : State, s.busy = true → s.phase = .ready → Waiting s.caller →
    (∀ m row, (row, m) ∈ Statements.triggerRows → s.op = some (.oneShot m) → s.stepNo = 0 → step s = exec row s) ∧
    (∀ r m row, (row, r, m) ∈ Statements.autoStartRows → s.op = some (.autoStart r m) → s.stepNo = 0 →
      step s = exec row s) ∧
    (∀ m row, (row, m) ∈ Statements.triggerRows → s.op = some (.autoStart 0 m) → s.stepNo = 0 →
      step s = exec row s) ∧
    (s.op = some .autoStop → s.stepNo = 0 → step s = exec .autoExit s) ∧
    (s.op = some (.autoRead .lastTempAndRH) → s.stepNo = 0 → step s = exec .readTrh s) ∧
    (s.op = some (.autoRead .minTemp) → s.stepNo = 0 → step s = exec .readTmin s) ∧
    (s.op = some (.autoRead .maxTemp) → s.stepNo = 0 → step s = exec .readTmax s) ∧
    (s.op = some (.autoRead .minRH) → s.stepNo = 0 → step s = exec .readRhmin s) ∧
    (s.op = some (.autoRead .maxRH) → s.stepNo = 0 → step s = exec .readRhmax s) ∧
    (∀ l, s.op = some (.heater l) → s.stepNo = 0 → step s = exec .heaterDis s) ∧
    (∀ l setting, s.op = some (.heater (l + 1)) → s.params.heaterSetting[l]? = some setting → s.stepNo = 1 →
      step s = exec (.heaterCfg setting) s) ∧
    (∀ l, s.op = some (.heater (l + 1)) → s.stepNo = 2 → step s = exec .heaterEn s) ∧
    (∀ c, s.op = some (.readStatus c) → s.stepNo = 0 → step s = exec .statusRead s) ∧
    (s.op = some (.readStatus true) → s.stepNo = 1 → step s = exec .statusClear s) ∧
    (s.op = some .readSerial → s.stepNo = 0 → step s = exec .serial0 s) ∧
    (s.op = some .readSerial → s.stepNo = 1 → step s = exec .serial1 s) ∧
    (s.op = some .readSerial → s.stepNo = 2 → step s = exec .serial2 s) ∧
    (s.op = some .readMfrId → s.stepNo = 0 → step s = exec .mfrId s) ∧
    (s.op = some .softReset → s.stepNo = 0 → step s = exec .softReset s)

/-- R180, R187: EXEC(cmd, n) sends the caller's code: with n > 2 InvalidInput before any bus access, with n = 0 one bus
write, with n = 1 or 2 one combined transaction. -/
def Obligations.DirectRequestGoesThroughTheTransactor : Prop :=
  ∀ (s : State) (cmd : Word) (n : Nat), s.busy = true → s.phase = .ready → Waiting s.caller →
    s.op = some (.exec cmd n) → s.stepNo = 0 →
      (2 < n → step s = .next { s with phase := .respond (.err .invalidInput), live := 0 }) ∧
      (∀ r s', n = 0 → s.draw = some (.ok r, s') →
        step s = .next { s' with
          trace := s.trace ++ [.write s.params.devAddr (be16 cmd) (.ok [])]
          stepNo := 1, phase := .ready, live := 0 }) ∧
      (∀ c s', n = 0 → s.draw = some (.err c, s') →
        step s = .next { s' with
          trace := s.trace ++ [.write s.params.devAddr (be16 cmd) (.err c)]
          phase := .respond (.err (.transportFailure c)), live := 0 }) ∧
      (∀ r s', n = 1 ∨ n = 2 → s.draw = some (.ok r, s') →
        step s = .next { s' with
          trace := s.trace ++ [.writeRead s.params.devAddr (be16 cmd) (3 * n) (.ok (r.toList.take (3 * n)))]
          buf := s.buf.writeBytes 0 (r.toList.take (3 * n))
          live := 3 * n, phase := .checkHi n 0 }) ∧
      (∀ c s', n = 1 ∨ n = 2 → s.draw = some (.err c, s') →
        step s = .next { s' with
          trace := s.trace ++ [.writeRead s.params.devAddr (be16 cmd) (3 * n) (.err c)]
          live := 0, phase := .retryDelay n 0 })

/-- R182: the retry loop. One delay of 1 ms before every bare read; a successful read is delivered as a combined
transaction's would be; a failed one loops, or under Bounded K raises RetriesExhausted after K failures. -/
def Obligations.RetryLoopStepByStep : Prop :=
  ∀ (s : State) (n a : Nat), s.busy = true → Waiting s.caller → n = 1 ∨ n = 2 →
    (s.phase = .retryDelay n a →
      step s = .next { s with trace := s.trace ++ [.delay 1], phase := .retryRead n a }) ∧
    (s.phase = .retryRead n a → ∀ r s', s.draw = some (.ok r, s') →
      step s = .next { s' with
        trace := s.trace ++ [.read s.params.devAddr (3 * n) (.ok (r.toList.take (3 * n)))]
        buf := s.buf.writeBytes 0 (r.toList.take (3 * n))
        live := 3 * n, phase := .checkHi n 0 }) ∧
    (s.phase = .retryRead n a → ∀ c s', s.draw = some (.err c, s') →
      let failed : State := { s' with
        trace := s.trace ++ [.read s.params.devAddr (3 * n) (.err c)] }
      (s.params.retry = .unbounded → step s = .next { failed with phase := .retryDelay n (a + 1) }) ∧
      (∀ k, s.params.retry = .bounded k → a + 1 ≠ k →
        step s = .next { failed with phase := .retryDelay n (a + 1) }) ∧
      (s.params.retry = .bounded (a + 1) →
        step s = .next { failed with phase := .respond (.err (.retriesExhausted c)), live := 0 }))

/-- R36, R114: a check that would read a byte of BUF the current transaction has not written, or ACC where it is unwritten,
and a CHECKSUM request's second accumulate on an unwritten ACC, add ReadUnwritten to FAULT and get no value. (That the
block then stays where it is, with nothing else changed, is DESIGN CHOICE, log 8.) -/
def Obligations.UnwrittenReadJoinsFault : Prop :=
  ∀ s : State, s.busy = true → Waiting s.caller →
    let faulted : Prop := step s = .next { s with faults := ⟨true, s.faults.reentrantRequest⟩ }
    (∀ n i a, s.phase = .checkHi n i ∨ s.phase = .checkLo n i → i < 2 → 3 * i ≤ a → a < 3 * i + 3 →
      s.live ≤ a ∨ s.buf.read a = none → faulted) ∧
    (∀ n i, s.phase = .checkLo n i → i < 2 → s.acc = none → faulted) ∧
    ∀ b1, s.phase = .sumLo b1 → s.acc = none → faulted

/-- R118 to R120: validation of an n-word response that is in BUF is all or nothing. Within 2n steps either every word
passed and all are appended to WORDS in order and the step is over, or ChecksumMismatch is raised and WORDS is as it
was. Nothing but ACC changes besides. -/
def Obligations.ValidationIsAllOrNothing : Prop :=
  ∀ (s : State) (n : Nat) (bytes : List Byte), s.busy = true → Waiting s.caller → n = 1 ∨ n = 2 →
    s.phase = .checkHi n 0 → s.live = 3 * n → bytes.length = 3 * n →
    (∀ a, a < 3 * n → s.buf.read a = bytes[a]?) →
      ∃ k t, k ≤ 2 * n ∧ run k s = .next t ∧
        match refValidate bytes with
        | .ok ws => t = { s with
            acc := t.acc, words := s.words ++ ws, stepNo := s.stepNo + 1, phase := .ready, live := 0 }
        | .error e => e = .checksumMismatch ∧ t = { s with acc := t.acc, phase := .respond (.err e), live := 0 }

/-- R186, R223: a decided response is emitted: RESULT takes it, BUSY, OP and STEP are cleared, WORDS and all else stay. -/
def Obligations.EmissionEndsTheOperation : Prop :=
  ∀ (s : State) (r : Response), s.busy = true → Waiting s.caller → s.phase = .respond r →
    step s = .next { s with result := some r, busy := false, op := none, stepNo := 0, phase := .ready }

/-- R91, R186, R188 to R199: at the end of its sequence an operation answers the value built from WORDS. -/
def Obligations.FinishedOperationAnswersItsValue : Prop :=
  ∀ s : State, s.busy = true → s.phase = .ready → Waiting s.caller →
    let answers : Value → Prop := fun v =>
      step s = .next { s with result := some (.ok v), busy := false, op := none, stepNo := 0, phase := .ready }
    (∀ m t rh, s.op = some (.oneShot m) → s.stepNo = 1 → s.words = [t, rh] →
      answers (.datum (.tempAndRH t rh))) ∧
    (∀ t rh, s.op = some (.autoRead .lastTempAndRH) → s.stepNo = 1 → s.words = [t, rh] →
      answers (.datum (.tempAndRH t rh))) ∧
    (∀ w, s.op = some (.autoRead .minTemp) → s.stepNo = 1 → s.words = [w] → answers (.datum (.minTemp w))) ∧
    (∀ w, s.op = some (.autoRead .maxTemp) → s.stepNo = 1 → s.words = [w] → answers (.datum (.maxTemp w))) ∧
    (∀ w, s.op = some (.autoRead .minRH) → s.stepNo = 1 → s.words = [w] → answers (.datum (.minRH w))) ∧
    (∀ w, s.op = some (.autoRead .maxRH) → s.stepNo = 1 → s.words = [w] → answers (.datum (.maxRH w))) ∧
    (∀ r m, s.op = some (.autoStart r m) → s.stepNo = 1 → answers .unit) ∧
    (s.op = some .autoStop → s.stepNo = 1 → answers .unit) ∧
    (s.op = some .softReset → s.stepNo = 1 → answers .unit) ∧
    (s.op = some (.heater 0) → s.stepNo = 1 → answers .unit) ∧
    (∀ l, s.op = some (.heater (l + 1)) → s.stepNo = 3 → answers .unit) ∧
    (∀ w, s.op = some (.readStatus false) → s.stepNo = 1 → s.words = [w] → answers (.word w)) ∧
    (∀ w, s.op = some (.readStatus true) → s.stepNo = 2 → s.words = [w] → answers (.word w)) ∧
    (∀ w0 w1 w2, s.op = some .readSerial → s.stepNo = 3 → s.words = [w0, w1, w2] →
      answers (.identity w0 w1 w2)) ∧
    (∀ w, s.op = some .readMfrId → s.stepNo = 1 → s.words = [w] → answers (.word w)) ∧
    ∀ cmd n, s.op = some (.exec cmd n) → s.stepNo = 1 → answers (.words s.words)

/-- R115, R187: a CHECKSUM request answers the checksum in four steps, with no bus access and BUF untouched. -/
def Obligations.ChecksumRequestAnswersTheChecksum : Prop :=
  ∀ (s : State) (b0 b1 : Byte) (rest : List CallerMove), s.busy = false → Waiting rest →
    s.caller = .request (.checksum b0 b1) :: rest →
      run 4 s = .next { s with
        caller := rest
        acc := some (crcTable (crcTable (0xFF ^^^ b0) ^^^ b1))
        words := []
        result := some (.ok (.check (crcTable (crcTable (0xFF ^^^ b0) ^^^ b1))))
        op := none, stepNo := 0, busy := false, phase := .ready, live := 0 }

/-- R192: HEATER(Off) is exactly one bus write; a non-off level with every write accepted is exactly three, in the order
disable, configure, enable; both answer unit. (The numbers of steps are the model's folding: DESIGN CHOICE, log 6.) -/
def Obligations.HeaterSendsItsFramesInOrder : Prop :=
  (∀ (s : State) (r : Vector Byte 6) (ds : List Draw) (rest : List CallerMove), s.busy = false → Waiting rest →
    s.caller = .request (.heater 0) :: rest → s.answers = .ok r :: ds →
      run 3 s = .next { s with
        caller := rest, answers := ds
        trace := s.trace ++ [.write s.params.devAddr (be16 (s.params.code .heaterDis)) (.ok [])]
        words := [], result := some (.ok .unit)
        op := none, stepNo := 0, busy := false, phase := .ready, live := 0 }) ∧
    ∀ (s : State) (l : Nat) (setting : Word) (r0 r1 r2 : Vector Byte 6) (ds : List Draw) (rest : List CallerMove),
      s.busy = false → Waiting rest → s.params.heaterSetting[l]? = some setting →
      s.caller = .request (.heater (l + 1)) :: rest → s.answers = .ok r0 :: .ok r1 :: .ok r2 :: ds →
        run 5 s = .next { s with
          caller := rest, answers := ds
          trace := s.trace ++
            [.write s.params.devAddr (be16 (s.params.code .heaterDis)) (.ok []),
             .write s.params.devAddr (encHeaterCfg s.params setting) (.ok []),
             .write s.params.devAddr (be16 (s.params.code .heaterEn)) (.ok [])]
          words := [], result := some (.ok .unit)
          op := none, stepNo := 0, busy := false, phase := .ready, live := 0 }

/-- The transport fails once the listed answers `more` are reached: the next listed answer is a failure, or none is left
and it fails for ever. `left` are the answers after that failure. -/
def Sys2Proof.Statements.FailsNext (s : State) (more : List Draw) (c : TransportCause) (left : List Draw) : Prop :=
  more = .err c :: left ∨ more = [] ∧ left = [] ∧ s.thereafter = some c

/-- R193: a heater operation whose configuration (step 1) or enable (step 2) write fails ends there with
TransportFailure; the frames sent before stay sent, none is undone or resent. From acceptance: a configuration that
fails leaves the disable behind, an enable that fails the disable and the configuration. And from the moment either
write is due, whatever was done before. (The numbers of steps are the model's folding: DESIGN CHOICE, log 6.) -/
def Obligations.HeaterFailureLeavesSentFrames : Prop :=
  ∀ (s : State) (l : Nat) (setting : Word) (c : TransportCause), s.params.heaterSetting[l]? = some setting →
    let disable : List Byte := be16 (s.params.code .heaterDis)
    let configure : List Byte := encHeaterCfg s.params setting
    let enable : List Byte := be16 (s.params.code .heaterEn)
    let write : List Byte → Reply → Event := fun f reply => .write s.params.devAddr f reply
    (∀ rest, s.busy = false → Waiting rest → s.caller = .request (.heater (l + 1)) :: rest →
      let ended : List Event → List Draw → Out := fun es left => .next { s with
        caller := rest, answers := left, trace := s.trace ++ es
        words := [], result := some (.err (.transportFailure c))
        op := none, stepNo := 0, busy := false, phase := .ready, live := 0 }
      (∀ r0 more left, s.answers = .ok r0 :: more → Statements.FailsNext s more c left →
        run 4 s = ended [write disable (.ok []), write configure (.err c)] left) ∧
      ∀ r0 r1 more left, s.answers = .ok r0 :: .ok r1 :: more → Statements.FailsNext s more c left →
        run 5 s = ended [write disable (.ok []), write configure (.ok []), write enable (.err c)] left) ∧
    ∀ s', s.busy = true → s.phase = .ready → Waiting s.caller → s.op = some (.heater (l + 1)) →
      s.draw = some (.err c, s') →
        let ended : List Byte → Prop := fun f =>
          run 2 s = .next { s' with
            trace := s.trace ++ [write f (.err c)]
            result := some (.err (.transportFailure c))
            op := none, stepNo := 0, busy := false, phase := .ready, live := 0 }
        (s.stepNo = 1 → ended configure) ∧ (s.stepNo = 2 → ended enable)

/-- R195: if the clear of READ_STATUS(true) fails, the response is TransportFailure alone: the status word read before
stays in WORDS, is not returned, and no command compensates. (The two steps are the model's folding: DESIGN CHOICE,
log 6.) -/
def Obligations.FailedStatusClearReturnsTheErrorAlone : Prop :=
  ∀ (s : State) (c : TransportCause) (s' : State), s.busy = true → s.phase = .ready → Waiting s.caller →
    s.op = some (.readStatus true) → s.stepNo = 1 → s.draw = some (.err c, s') →
      run 2 s = .next { s' with
        trace := s.trace ++ [.write s.params.devAddr (be16 (s.params.code .statusClear)) (.err c)]
        result := some (.err (.transportFailure c))
        op := none, stepNo := 0, busy := false, phase := .ready, live := 0 }

/-- R255: SOFT_RESET resets the device and not the block: after it, however the write went, ACC, BUF, FAULT and the
parameters are as before, and only the ordinary sequencing has shown. (The three steps are the model's folding: DESIGN
CHOICE, log 6.) -/
def Obligations.SoftResetLeavesTheBlockAlone : Prop :=
  ∀ (s s' : State) (rest : List CallerMove), s.busy = false → Waiting rest →
    s.caller = .request .softReset :: rest →
      let ended : Reply → Response → Out := fun reply r => .next { s' with
        caller := rest
        trace := s.trace ++ [.write s.params.devAddr (be16 (s.params.code .softReset)) reply]
        words := [], result := some r
        op := none, stepNo := 0, busy := false, phase := .ready, live := 0
        acc := s.acc, buf := s.buf, faults := s.faults, params := s.params }
      (∀ r, s.draw = some (.ok r, s') → run 3 s = ended (.ok []) (.ok .unit)) ∧
        ∀ c, s.draw = some (.err c, s') → run 3 s = ended (.err c) (.err (.transportFailure c))

/-! ### Rules of the whole machine -/

/-- The state right after reset meets the invariant (under the reference instantiation, log 5). -/
def Obligations.ResetMeetsTheInvariant : Prop := BlockInv State.reset

/-- Every step keeps the invariant, from every state that meets it. -/
def Obligations.EveryStepKeepsTheInvariant : Prop := ∀ s t : State, BlockInv s → step s = .next t → BlockInv t

/-- A state that meets the invariant always has a next state: no fault and no refusal of the model is ever met. -/
def Obligations.SoundStatesNeverStop : Prop := ∀ s : State, BlockInv s → ∃ t, step s = .next t

/-- BUF keeps its canonical form in every step, from any state at all. -/
def Obligations.EveryStepKeepsBufCanonical : Prop :=
  ∀ s t : State, s.buf.wf = true → step s = .next t → t.buf.wf = true

/-- R40 to R42: no step writes the constants or the command ROM. -/
def Obligations.NoStepWritesTheConstants : Prop := ∀ s t : State, step s = .next t → t.params = s.params

/-- R229: a fault reason, once added, is never removed; and the trace only grows (R62). -/
def Obligations.FaultsAndTraceOnlyGrow : Prop :=
  ∀ s t : State, step s = .next t →
    (s.faults.readUnwritten = true → t.faults.readUnwritten = true) ∧
      (s.faults.reentrantRequest = true → t.faults.reentrantRequest = true) ∧
      (t.trace = s.trace ∨ ∃ e, t.trace = s.trace ++ [e])

/-- R35, R186: RESULT is written by response emission alone, which ends the operation. -/
def Obligations.ResultIsWrittenOnlyByEmission : Prop :=
  ∀ s t : State, step s = .next t → t.result ≠ s.result →
    s.busy = true ∧ t.busy = false ∧ t.op = none ∧ t.stepNo = 0 ∧ t.words = s.words ∧ t.trace = s.trace

/-- R91, R222: an operation ends only with a value of its type or an error its row of R222's table allows. -/
def Obligations.ResponsesAreThoseOfTheTables : Prop :=
  ∀ s t : State, BlockInv s → step s = .next t → s.busy = true → t.busy = false →
    ∃ op r, s.op = some op ∧ t.result = some r ∧ responseFits s.params op r = true

/-- R22, R23, R58, R96, R99: everything the block does to its environment is legal for the operation running. -/
def Obligations.EnvironmentAccessesAreLegal : Prop :=
  ∀ s t : State, BlockInv s → step s = .next t →
    t.trace = s.trace ∨ ∃ e, t.trace = s.trace ++ [e] ∧ eventLegal s.params s.op e

/-- R60, R181: inside the retry loop only delays and bare reads happen; the command frame is not sent again. -/
def Obligations.RetryLoopNeverResendsTheCommand : Prop :=
  ∀ (s t : State) (n a : Nat), s.busy = true → s.phase = .retryDelay n a ∨ s.phase = .retryRead n a →
    step s = .next t →
      t.trace = s.trace ∨ t.trace = s.trace ++ [.delay 1] ∨ ∃ reply, t.trace = s.trace ++ [.read s.params.devAddr (3 * n) reply]

/-- R122: a word enters WORDS only through validation: besides the clear at acceptance, WORDS grows only at the end of a
check, by all the words of the response, each of which carries its checksum in BUF. -/
def Obligations.OnlyValidatedWordsEnterWords : Prop :=
  ∀ s t : State, BlockInv s → step s = .next t → t.words ≠ s.words → t.words ≠ [] →
    ∃ n out, t.words = s.words ++ out ∧ out.length = n ∧ s.live = 3 * n ∧
      ∀ j, j < n → ∃ h l, s.buf.read (3 * j) = some h ∧ s.buf.read (3 * j + 1) = some l ∧
        s.buf.read (3 * j + 2) = some (checksum h l) ∧ out[j]? = some (wordOf h l)

/-- R227: under unbounded retry, if every bare read fails, with whatever causes, the operation never ends and no response
is emitted; nor if the transport falls silent after any number of failures. What follows the listed answers, one cause
repeated or silence, is the model's form of an endless transport (DESIGN CHOICE, log 2); since the list is any list,
every endless run of failures agrees with one of these as far as any number of steps. -/
def Obligations.UnboundedRetryNeverEnds : Prop :=
  ∀ (s : State) (n a : Nat) (causes : List TransportCause), s.busy = true → Waiting s.caller →
    s.phase = .retryDelay n a ∨ s.phase = .retryRead n a → s.params.retry = .unbounded →
    s.answers = causes.map .err →
      ∀ k, ∃ t, run k s = .next t ∧ t.busy = true ∧ t.op = s.op ∧ t.result = s.result

/-- R182, R221: under Bounded K, if every bare read fails, K attempts end in RetriesExhausted with the last cause. -/
def Obligations.BoundedRetryEndsAfterKFailures : Prop :=
  ∀ (s : State) (n a k : Nat) (c : TransportCause) (causes : List TransportCause) (rest : List Draw),
    s.busy = true → Waiting s.caller → s.phase = .retryDelay n a →
    s.params.retry = .bounded k → a + causes.length + 1 = k →
    s.answers = causes.map .err ++ .err c :: rest →
      ∃ t, run (2 * (causes.length + 1)) s = .next t ∧ t.phase = .respond (.err (.retriesExhausted c)) ∧
        t.answers = rest ∧ t.buf = s.buf ∧ t.acc = s.acc ∧ t.words = s.words ∧ t.op = s.op ∧
        t.stepNo = s.stepNo ∧ t.busy = true

/-- The machine refines the pseudocode of 43_operations.md: whenever the whole-operation reading of a request comes to a
response within the transport's answers, the machine, asked that request while idle, reaches it: the same response,
the same frames and delays in the same order, the same answers left, the block idle again. -/
def Obligations.MachineRefinesTheOperations : Prop :=
  ∀ (s : State) (op : Op) (r : Response) (es : List Event) (ds : List Draw) (rest : List CallerMove),
    s.params.wf = true → op.wf s.params = true → s.busy = false → Waiting rest →
    s.caller = .request op :: rest → refOp s.params op s.answers = some (r, es, ds) →
      ∃ k t, run k s = .next t ∧ t.result = some r ∧ t.trace = s.trace ++ es ∧ t.answers = ds ∧
        t.caller = rest ∧ t.busy = false ∧ t.op = none ∧ t.stepNo = 0 ∧ t.phase = .ready ∧
        t.params = s.params ∧ t.faults = s.faults

/-! ### Rates the opcode table has no rows for -/

/-- R147, R189: AUTO_START at a rate of the instantiation that the opcode table has no rows for (DESIGN CHOICE, log 18) is
one bus write of START(r, m), as at every other rate; a failure raises TransportFailure; while the transport does not
answer, nothing changes (log 2). -/
def Obligations.StartsWithoutARowAreWritten : Prop :=
  ∀ (s : State) (k : Nat) (m : LowPowerMode) (code : Word), s.busy = true → s.phase = .ready → Waiting s.caller →
    s.op = some (.autoStart k m) → s.stepNo = 0 → Instr.ofStart k m = none → s.params.start k m = some code →
      (∀ r s', s.draw = some (.ok r, s') →
        step s = .next { s' with
          trace := s.trace ++ [.write s.params.devAddr (be16 code) (.ok [])]
          stepNo := 1, phase := .ready, live := 0 }) ∧
      (∀ c s', s.draw = some (.err c, s') →
        step s = .next { s' with
          trace := s.trace ++ [.write s.params.devAddr (be16 code) (.err c)]
          phase := .respond (.err (.transportFailure c)), live := 0 }) ∧
      (s.draw = none → step s = .next s)
end

