-- ==== Sys2Proof/Laws/Bytes.lean ====
section
/-! SUPPORT. The laws of the encodings: words to bytes and back, indices, unary naturals, the reference tables. -/

namespace Sys2Proof

open Sys2Proof.Machine

@[simp] theorem Machine.wordOf_hi_lo (w : Word) : wordOf (hiByte w) (loByte w) = w := by
  apply BitVec.eq_of_getLsbD_eq
  intro i hi
  simp only [wordOf, hiByte, loByte, BitVec.getLsbD_or, BitVec.getLsbD_shiftLeft, BitVec.truncate_eq_setWidth,
    BitVec.getLsbD_setWidth, BitVec.getLsbD_extractLsb']
  by_cases h : i < 8
  · simp [h, hi]
  · simp only [h, decide_false, Bool.not_false, Bool.and_true]
    have h1 : i - 8 < 8 := by omega
    have h2 : 8 + (i - 8) = i := by omega
    simp [hi, h1, h2]
    omega

@[simp] theorem Machine.hiByte_wordOf (h l : Byte) : hiByte (wordOf h l) = h := by
  apply BitVec.eq_of_getLsbD_eq
  intro i hi
  simp only [wordOf, hiByte, BitVec.getLsbD_extractLsb', BitVec.getLsbD_or, BitVec.getLsbD_shiftLeft,
    BitVec.truncate_eq_setWidth, BitVec.getLsbD_setWidth]
  have h1 : l.getLsbD (8 + i) = false := BitVec.getLsbD_of_ge _ _ (by omega)
  have h2 : 8 + i - 8 = i := by omega
  have h3 : 8 + i < 16 := by omega
  have h4 : i < 16 := by omega
  rw [h1, h2]
  simp [hi, h3, h4]

@[simp] theorem Machine.loByte_wordOf (h l : Byte) : loByte (wordOf h l) = l := by
  apply BitVec.eq_of_getLsbD_eq
  intro i hi
  simp only [wordOf, loByte, BitVec.getLsbD_extractLsb', BitVec.getLsbD_or, BitVec.getLsbD_shiftLeft,
    BitVec.truncate_eq_setWidth, BitVec.getLsbD_setWidth]
  simp [hi]
  omega

theorem Machine.be16_injective {v w : Word} (h : be16 v = be16 w) : v = w := by
  simp only [be16, List.cons.injEq, and_true] at h
  rw [← wordOf_hi_lo v, ← wordOf_hi_lo w, h.1, h.2]

@[simp] theorem decodeNat_encodeNat (n : Nat) (rest : List Byte) :
    decodeNat (encodeNat n ++ rest) = .ok (n, rest) := by
  induction n with
  | zero => rfl
  | succ n ih => simp [encodeNat, decodeNat, ih]

@[simp] theorem lpmOf_index (m : LowPowerMode) : lpmOf m.index.val = m := by cases m <;> rfl

@[simp] theorem targetOf_targetIndex (t : AutoReadTarget) : targetOf (targetIndex t) = some t := by cases t <;> rfl

/-- A row of the opcode table's start rows is the row of its rate and mode. -/
theorem Instr.startOf_ofStart {r : Nat} {m : LowPowerMode} {i : Instr} (h : Instr.ofStart r m = some i) :
    i.startOf = some (r, m) := by
  match r, m with
  | 0, .lpm0 | 0, .lpm1 | 0, .lpm2 | 0, .lpm3 | 1, .lpm0 | 1, .lpm1 | 1, .lpm2 | 1, .lpm3
  | 2, .lpm0 | 2, .lpm1 | 2, .lpm2 | 2, .lpm3 | 3, .lpm0 | 3, .lpm1 | 3, .lpm2 | 3, .lpm3
  | 4, .lpm0 | 4, .lpm1 | 4, .lpm2 | 4, .lpm3 | 5, .lpm0 | 5, .lpm1 | 5, .lpm2 | 5, .lpm3 =>
    cases h; rfl
  | _ + 6, .lpm0 | _ + 6, .lpm1 | _ + 6, .lpm2 | _ + 6, .lpm3 => cases h

@[simp] theorem Op.opOf_instr (op : Op) : op.instr.opOf = some op := by cases op <;> rfl

theorem Instr.instr_of_opOf {i : Instr} {op : Op} (h : i.opOf = some op) : op.instr = i := by
  cases i <;> simp only [Instr.opOf, Option.some.injEq, reduceCtorEq] at h <;> subst h <;> rfl

theorem encode_request {p : Params} {i : Instr} {op : Op} (h : i.opOf = some op) :
    encode p i = some (encodeOp op) := by
  unfold encode; rw [h]

@[simp] theorem encode_heaterCfg (p : Params) (setting : Word) :
    encode p (.heaterCfg setting) = some (encHeaterCfg p setting) := rfl

/-- A row with a code is encoded as that code's frame. -/
theorem encode_of_code {p : Params} {i : Instr} {code : Word} (h : i.cmdCodeOf p = some code) :
    encode p i = some (enc code) := by
  cases i <;> first
    | (simp only [Instr.cmdCodeOf, Instr.startOf, Instr.fixedOf, reduceCtorEq] at h; done)
    | simp only [encode, Instr.opOf, encodeFrame, h]

/-- Reading a frame whose first two bytes are a code's. -/
theorem decodeFrame_be16 (p : Params) (code : Word) (rest : List Byte) :
    decodeFrame p (be16 code ++ rest) =
      if code = p.code .heaterCfg then decodeConfig p rest
      else
        match commandOfCode p code with
        | some c => .ok (c, rest)
        | none => .error (.noRow code) := by
  have h : wordOf (hiByte code) (loByte code) = code := wordOf_hi_lo code
  rw [be16, List.cons_append, List.cons_append, List.nil_append, decodeFrame, h]
  all_goals rfl

/-- A row found by its code is a row of format CMD, has no request, and has that code. -/
theorem rowOfCode_some {p : Params} {code : Word} {i : Instr} (h : rowOfCode p code = some i) :
    i ∈ Instr.cmdRows ∧ i.opOf = none ∧ i.cmdCodeOf p = some code := by
  have h1 := List.find?_some h
  have h2 := List.mem_of_find?_eq_some h
  have h3 : ∀ j ∈ Instr.cmdRows, j.opOf = none := by decide
  exact ⟨h2, h3 i h2, by simpa using h1⟩

/-- A rate and mode found by a code have that code. -/
theorem startOfCode_some {p : Params} {code : Word} {r : Nat} {m : LowPowerMode}
    (h : startOfCode p code = some (r, m)) : p.start r m = some code := by
  simpa using List.find?_some h

/-- The code of a start command of the instantiation is found. -/
theorem startOfCode_isSome {p : Params} {code : Word} {r : Nat} {m : LowPowerMode} (hr : r < p.starts.length)
    (h : p.start r m = some code) : (startOfCode p code).isSome = true := by
  unfold startOfCode
  rw [List.find?_isSome]
  refine ⟨(r, m), List.mem_flatMap.mpr ⟨r, List.mem_range.mpr hr, ?_⟩, decide_eq_true h⟩
  exact List.mem_map_of_mem (by cases m <;> decide)

/-- A command found by its code is a row of format CMD with that code, or a start command with it where no row has
it. -/
theorem commandOfCode_some {p : Params} {code : Word} {c : Command} (h : commandOfCode p code = some c) :
    (∃ i, c = .row i ∧ i ∈ Instr.cmdRows ∧ i.opOf = none ∧ i.cmdCodeOf p = some code) ∨
      ∃ r m, c = .start r m ∧ rowOfCode p code = none ∧ p.start r m = some code := by
  unfold commandOfCode at h
  split at h
  · rename_i i e
    cases h
    exact .inl ⟨i, rfl, rowOfCode_some e⟩
  · rename_i e
    split at h
    · rename_i r m e'
      cases h
      exact .inr ⟨r, m, rfl, e, startOfCode_some e'⟩
    · cases h

/-- A start command is encoded as its code's frame. -/
theorem encodeCommand_start {p : Params} {r : Nat} {m : LowPowerMode} {code : Word} (h : p.start r m = some code) :
    encodeCommand p (.start r m) = some (enc code) := by
  simp only [encodeCommand, h]

@[simp] theorem encodeCommand_row (p : Params) (i : Instr) : encodeCommand p (.row i) = encode p i := rfl

/-- A well-formed instantiation has a code for every rate it has. -/
theorem Params.start_of_lt {p : Params} {r : Nat} (m : LowPowerMode) (h : r < p.starts.length) :
    p.start r m = some (p.starts[r].code m) := by
  simp [Params.start, List.getElem?_eq_getElem h]

theorem Params.setting_of_le {p : Params} {l : Nat} (h : l + 1 ≤ p.heaterSetting.length) :
    p.setting (l + 1) = some p.heaterSetting[l] := by
  simp [Params.setting, List.getElem?_eq_getElem (show l < p.heaterSetting.length by omega)]

@[simp] theorem decode_bus (p : Params) (bytes : List Byte) : decode p .bus bytes = decodeFrame p bytes := rfl

/-- Decoding a request succeeds as the request's own decoder does. -/
theorem decode_request_ok {p : Params} {bytes rest : List Byte} {i : Instr} (h : decodeRequest bytes = .ok (i, rest)) :
    decode p .request bytes = .ok (.row i, rest) := by
  simp only [decode, h]

theorem Params.reference_wf : Params.reference.wf = true := by decide

end Sys2Proof
end

