-- ==== Sys2Proof/Laws/Memory.lean ====
section
/-! SUPPORT. The laws of BUF: a read after a write, and that writes keep the canonical form. -/

namespace Sys2Proof.Machine

@[simp] theorem Memory.read_nil (a : Nat) : Memory.read [] a = none := rfl

theorem Memory.read_write_self (m : Memory) (a : Nat) (v : Byte) : (m.write a v).read a = some v := by
  induction m with
  | nil => simp [Memory.write, Memory.read]
  | cons c m ih =>
    obtain ⟨k, b⟩ := c
    unfold Memory.write
    split
    · simp [Memory.read]
    · split
      · simp [Memory.read]
      · simp [Memory.read, ih]; omega

theorem Memory.read_write_other (m : Memory) {a a' : Nat} (v : Byte) (h : a' ≠ a) :
    (m.write a v).read a' = m.read a' := by
  induction m with
  | nil => simp [Memory.write, Memory.read, Ne.symm h]
  | cons c m ih =>
    obtain ⟨k, b⟩ := c
    unfold Memory.write
    split
    · simp [Memory.read, Ne.symm h]
    · split
      · subst k; simp [Memory.read, Ne.symm h]
      · simp [Memory.read, ih]

/-- A byte outside the bytes written reads as before. -/
theorem Memory.read_writeBytes_outside (vs : List Byte) :
    ∀ (m : Memory) (a x : Nat), x < a ∨ a + vs.length ≤ x → (m.writeBytes a vs).read x = m.read x := by
  induction vs with
  | nil => intros; rfl
  | cons v vs ih =>
    intro m a x h
    simp only [List.length_cons] at h
    rw [Memory.writeBytes, ih _ _ _ (by omega), Memory.read_write_other _ _ (by omega)]

/-- A byte inside the bytes written reads as written. -/
theorem Memory.read_writeBytes_inside (vs : List Byte) :
    ∀ (m : Memory) (a k : Nat), k < vs.length → (m.writeBytes a vs).read (a + k) = vs[k]? := by
  induction vs with
  | nil => intro m a k h; simp at h
  | cons v vs ih =>
    intro m a k h
    rw [Memory.writeBytes]
    cases k with
    | zero =>
      rw [Memory.read_writeBytes_outside _ _ _ _ (by omega)]
      simpa using Memory.read_write_self m a v
    | succ k =>
      have := ih (m.write a v) (a + 1) k (by simpa using h)
      simpa [Nat.add_assoc, Nat.add_comm 1 k] using this

theorem Memory.wfFrom_mono {lo lo' : Nat} (m : Memory) (h : lo ≤ lo') :
    Memory.wfFrom lo' m = true → Memory.wfFrom lo m = true := by
  cases m with
  | nil => simp [Memory.wfFrom]
  | cons c m =>
    obtain ⟨k, b⟩ := c
    simp only [Memory.wfFrom, Bool.and_eq_true, decide_eq_true_eq]
    rintro ⟨⟨h1, h2⟩, h3⟩
    exact ⟨⟨by omega, h2⟩, h3⟩

theorem Memory.wfFrom_write (m : Memory) :
    ∀ (lo a : Nat) (v : Byte), lo ≤ a → a < bufSize → Memory.wfFrom lo m = true →
      Memory.wfFrom lo (m.write a v) = true := by
  induction m with
  | nil => intro lo a v h1 h2 _; simp [Memory.write, Memory.wfFrom, h1, h2]
  | cons c m ih =>
    obtain ⟨k, b⟩ := c
    intro lo a v h1 h2 h
    simp only [Memory.wfFrom, Bool.and_eq_true, decide_eq_true_eq] at h
    obtain ⟨⟨h3, h4⟩, h5⟩ := h
    unfold Memory.write
    split
    · simp only [Memory.wfFrom, Bool.and_eq_true, decide_eq_true_eq]
      exact ⟨⟨h1, h2⟩, ⟨by omega, h4⟩, h5⟩
    · split
      · subst k; simp [Memory.wfFrom, h1, h2, h5]
      · simp only [Memory.wfFrom, Bool.and_eq_true, decide_eq_true_eq]
        exact ⟨⟨h3, h4⟩, ih _ _ _ (by omega) h2 h5⟩

/-- Writing one byte of BUF keeps the canonical form. -/
theorem Memory.wf_write {m : Memory} {a : Nat} (v : Byte) (ha : a < bufSize) (h : m.wf = true) :
    (m.write a v).wf = true :=
  Memory.wfFrom_write m 0 a v (Nat.zero_le a) ha h

/-- Writing bytes within BUF keeps the canonical form. -/
theorem Memory.wf_writeBytes (vs : List Byte) :
    ∀ (m : Memory) (a : Nat), a + vs.length ≤ bufSize → m.wf = true → (m.writeBytes a vs).wf = true := by
  induction vs with
  | nil => intro m a _ h; exact h
  | cons v vs ih =>
    intro m a h hm
    simp only [List.length_cons] at h
    exact ih _ _ (by omega) (Memory.wf_write v (by omega) hm)

/-- BUF has the canonical form at reset. -/
theorem Memory.wf_reset : State.reset.buf.wf = true := rfl

end Sys2Proof.Machine
end

