-- ==== Sys2Proof/Laws/State.lean ====
section
/-! SUPPORT. One lemma per field per update of State, true by rfl, so that no proof unfolds a record update. -/

namespace Sys2Proof.Machine

@[simp] theorem State.setAcc_acc (s : State) (b : Byte) : (s.setAcc b).acc = some b := rfl
@[simp] theorem State.setAcc_buf (s : State) (b : Byte) : (s.setAcc b).buf = s.buf := rfl
@[simp] theorem State.setAcc_words (s : State) (b : Byte) : (s.setAcc b).words = s.words := rfl
@[simp] theorem State.setAcc_op (s : State) (b : Byte) : (s.setAcc b).op = s.op := rfl
@[simp] theorem State.setAcc_stepNo (s : State) (b : Byte) : (s.setAcc b).stepNo = s.stepNo := rfl
@[simp] theorem State.setAcc_busy (s : State) (b : Byte) : (s.setAcc b).busy = s.busy := rfl
@[simp] theorem State.setAcc_result (s : State) (b : Byte) : (s.setAcc b).result = s.result := rfl
@[simp] theorem State.setAcc_faults (s : State) (b : Byte) : (s.setAcc b).faults = s.faults := rfl
@[simp] theorem State.setAcc_params (s : State) (b : Byte) : (s.setAcc b).params = s.params := rfl
@[simp] theorem State.setAcc_phase (s : State) (b : Byte) : (s.setAcc b).phase = s.phase := rfl
@[simp] theorem State.setAcc_live (s : State) (b : Byte) : (s.setAcc b).live = s.live := rfl
@[simp] theorem State.setAcc_caller (s : State) (b : Byte) : (s.setAcc b).caller = s.caller := rfl
@[simp] theorem State.setAcc_answers (s : State) (b : Byte) : (s.setAcc b).answers = s.answers := rfl
@[simp] theorem State.setAcc_thereafter (s : State) (b : Byte) : (s.setAcc b).thereafter = s.thereafter := rfl
@[simp] theorem State.setAcc_trace (s : State) (b : Byte) : (s.setAcc b).trace = s.trace := rfl

@[simp] theorem State.addReadUnwritten_acc (s : State) : (s.addReadUnwritten).acc = s.acc := rfl
@[simp] theorem State.addReadUnwritten_buf (s : State) : (s.addReadUnwritten).buf = s.buf := rfl
@[simp] theorem State.addReadUnwritten_words (s : State) : (s.addReadUnwritten).words = s.words := rfl
@[simp] theorem State.addReadUnwritten_op (s : State) : (s.addReadUnwritten).op = s.op := rfl
@[simp] theorem State.addReadUnwritten_stepNo (s : State) : (s.addReadUnwritten).stepNo = s.stepNo := rfl
@[simp] theorem State.addReadUnwritten_busy (s : State) : (s.addReadUnwritten).busy = s.busy := rfl
@[simp] theorem State.addReadUnwritten_result (s : State) : (s.addReadUnwritten).result = s.result := rfl
@[simp] theorem State.addReadUnwritten_faults (s : State) : (s.addReadUnwritten).faults = { s.faults with readUnwritten := true } := rfl
@[simp] theorem State.addReadUnwritten_params (s : State) : (s.addReadUnwritten).params = s.params := rfl
@[simp] theorem State.addReadUnwritten_phase (s : State) : (s.addReadUnwritten).phase = s.phase := rfl
@[simp] theorem State.addReadUnwritten_live (s : State) : (s.addReadUnwritten).live = s.live := rfl
@[simp] theorem State.addReadUnwritten_caller (s : State) : (s.addReadUnwritten).caller = s.caller := rfl
@[simp] theorem State.addReadUnwritten_answers (s : State) : (s.addReadUnwritten).answers = s.answers := rfl
@[simp] theorem State.addReadUnwritten_thereafter (s : State) : (s.addReadUnwritten).thereafter = s.thereafter := rfl
@[simp] theorem State.addReadUnwritten_trace (s : State) : (s.addReadUnwritten).trace = s.trace := rfl

@[simp] theorem State.addReentrant_acc (s : State) : (s.addReentrant).acc = s.acc := rfl
@[simp] theorem State.addReentrant_buf (s : State) : (s.addReentrant).buf = s.buf := rfl
@[simp] theorem State.addReentrant_words (s : State) : (s.addReentrant).words = s.words := rfl
@[simp] theorem State.addReentrant_op (s : State) : (s.addReentrant).op = s.op := rfl
@[simp] theorem State.addReentrant_stepNo (s : State) : (s.addReentrant).stepNo = s.stepNo := rfl
@[simp] theorem State.addReentrant_busy (s : State) : (s.addReentrant).busy = s.busy := rfl
@[simp] theorem State.addReentrant_result (s : State) : (s.addReentrant).result = s.result := rfl
@[simp] theorem State.addReentrant_faults (s : State) : (s.addReentrant).faults = { s.faults with reentrantRequest := true } := rfl
@[simp] theorem State.addReentrant_params (s : State) : (s.addReentrant).params = s.params := rfl
@[simp] theorem State.addReentrant_phase (s : State) : (s.addReentrant).phase = s.phase := rfl
@[simp] theorem State.addReentrant_live (s : State) : (s.addReentrant).live = s.live := rfl
@[simp] theorem State.addReentrant_caller (s : State) : (s.addReentrant).caller = s.caller := rfl
@[simp] theorem State.addReentrant_answers (s : State) : (s.addReentrant).answers = s.answers := rfl
@[simp] theorem State.addReentrant_thereafter (s : State) : (s.addReentrant).thereafter = s.thereafter := rfl
@[simp] theorem State.addReentrant_trace (s : State) : (s.addReentrant).trace = s.trace := rfl

@[simp] theorem State.goto_acc (s : State) (ph : Phase) : (s.goto ph).acc = s.acc := rfl
@[simp] theorem State.goto_buf (s : State) (ph : Phase) : (s.goto ph).buf = s.buf := rfl
@[simp] theorem State.goto_words (s : State) (ph : Phase) : (s.goto ph).words = s.words := rfl
@[simp] theorem State.goto_op (s : State) (ph : Phase) : (s.goto ph).op = s.op := rfl
@[simp] theorem State.goto_stepNo (s : State) (ph : Phase) : (s.goto ph).stepNo = s.stepNo := rfl
@[simp] theorem State.goto_busy (s : State) (ph : Phase) : (s.goto ph).busy = s.busy := rfl
@[simp] theorem State.goto_result (s : State) (ph : Phase) : (s.goto ph).result = s.result := rfl
@[simp] theorem State.goto_faults (s : State) (ph : Phase) : (s.goto ph).faults = s.faults := rfl
@[simp] theorem State.goto_params (s : State) (ph : Phase) : (s.goto ph).params = s.params := rfl
@[simp] theorem State.goto_phase (s : State) (ph : Phase) : (s.goto ph).phase = ph := rfl
@[simp] theorem State.goto_live (s : State) (ph : Phase) : (s.goto ph).live = s.live := rfl
@[simp] theorem State.goto_caller (s : State) (ph : Phase) : (s.goto ph).caller = s.caller := rfl
@[simp] theorem State.goto_answers (s : State) (ph : Phase) : (s.goto ph).answers = s.answers := rfl
@[simp] theorem State.goto_thereafter (s : State) (ph : Phase) : (s.goto ph).thereafter = s.thereafter := rfl
@[simp] theorem State.goto_trace (s : State) (ph : Phase) : (s.goto ph).trace = s.trace := rfl

@[simp] theorem State.record_acc (s : State) (e : Event) : (s.record e).acc = s.acc := rfl
@[simp] theorem State.record_buf (s : State) (e : Event) : (s.record e).buf = s.buf := rfl
@[simp] theorem State.record_words (s : State) (e : Event) : (s.record e).words = s.words := rfl
@[simp] theorem State.record_op (s : State) (e : Event) : (s.record e).op = s.op := rfl
@[simp] theorem State.record_stepNo (s : State) (e : Event) : (s.record e).stepNo = s.stepNo := rfl
@[simp] theorem State.record_busy (s : State) (e : Event) : (s.record e).busy = s.busy := rfl
@[simp] theorem State.record_result (s : State) (e : Event) : (s.record e).result = s.result := rfl
@[simp] theorem State.record_faults (s : State) (e : Event) : (s.record e).faults = s.faults := rfl
@[simp] theorem State.record_params (s : State) (e : Event) : (s.record e).params = s.params := rfl
@[simp] theorem State.record_phase (s : State) (e : Event) : (s.record e).phase = s.phase := rfl
@[simp] theorem State.record_live (s : State) (e : Event) : (s.record e).live = s.live := rfl
@[simp] theorem State.record_caller (s : State) (e : Event) : (s.record e).caller = s.caller := rfl
@[simp] theorem State.record_answers (s : State) (e : Event) : (s.record e).answers = s.answers := rfl
@[simp] theorem State.record_thereafter (s : State) (e : Event) : (s.record e).thereafter = s.thereafter := rfl
@[simp] theorem State.record_trace (s : State) (e : Event) : (s.record e).trace = s.trace ++ [e] := rfl

@[simp] theorem State.appendWords_acc (s : State) (out : List Word) : (s.appendWords out).acc = s.acc := rfl
@[simp] theorem State.appendWords_buf (s : State) (out : List Word) : (s.appendWords out).buf = s.buf := rfl
@[simp] theorem State.appendWords_words (s : State) (out : List Word) : (s.appendWords out).words = s.words ++ out := rfl
@[simp] theorem State.appendWords_op (s : State) (out : List Word) : (s.appendWords out).op = s.op := rfl
@[simp] theorem State.appendWords_stepNo (s : State) (out : List Word) : (s.appendWords out).stepNo = s.stepNo := rfl
@[simp] theorem State.appendWords_busy (s : State) (out : List Word) : (s.appendWords out).busy = s.busy := rfl
@[simp] theorem State.appendWords_result (s : State) (out : List Word) : (s.appendWords out).result = s.result := rfl
@[simp] theorem State.appendWords_faults (s : State) (out : List Word) : (s.appendWords out).faults = s.faults := rfl
@[simp] theorem State.appendWords_params (s : State) (out : List Word) : (s.appendWords out).params = s.params := rfl
@[simp] theorem State.appendWords_phase (s : State) (out : List Word) : (s.appendWords out).phase = s.phase := rfl
@[simp] theorem State.appendWords_live (s : State) (out : List Word) : (s.appendWords out).live = s.live := rfl
@[simp] theorem State.appendWords_caller (s : State) (out : List Word) : (s.appendWords out).caller = s.caller := rfl
@[simp] theorem State.appendWords_answers (s : State) (out : List Word) : (s.appendWords out).answers = s.answers := rfl
@[simp] theorem State.appendWords_thereafter (s : State) (out : List Word) : (s.appendWords out).thereafter = s.thereafter := rfl
@[simp] theorem State.appendWords_trace (s : State) (out : List Word) : (s.appendWords out).trace = s.trace := rfl

@[simp] theorem State.openTransaction_acc (s : State) : (s.openTransaction).acc = s.acc := rfl
@[simp] theorem State.openTransaction_buf (s : State) : (s.openTransaction).buf = s.buf := rfl
@[simp] theorem State.openTransaction_words (s : State) : (s.openTransaction).words = s.words := rfl
@[simp] theorem State.openTransaction_op (s : State) : (s.openTransaction).op = s.op := rfl
@[simp] theorem State.openTransaction_stepNo (s : State) : (s.openTransaction).stepNo = s.stepNo := rfl
@[simp] theorem State.openTransaction_busy (s : State) : (s.openTransaction).busy = s.busy := rfl
@[simp] theorem State.openTransaction_result (s : State) : (s.openTransaction).result = s.result := rfl
@[simp] theorem State.openTransaction_faults (s : State) : (s.openTransaction).faults = s.faults := rfl
@[simp] theorem State.openTransaction_params (s : State) : (s.openTransaction).params = s.params := rfl
@[simp] theorem State.openTransaction_phase (s : State) : (s.openTransaction).phase = s.phase := rfl
@[simp] theorem State.openTransaction_live (s : State) : (s.openTransaction).live = 0 := rfl
@[simp] theorem State.openTransaction_caller (s : State) : (s.openTransaction).caller = s.caller := rfl
@[simp] theorem State.openTransaction_answers (s : State) : (s.openTransaction).answers = s.answers := rfl
@[simp] theorem State.openTransaction_thereafter (s : State) : (s.openTransaction).thereafter = s.thereafter := rfl
@[simp] theorem State.openTransaction_trace (s : State) : (s.openTransaction).trace = s.trace := rfl

@[simp] theorem State.stepDone_acc (s : State) : (s.stepDone).acc = s.acc := rfl
@[simp] theorem State.stepDone_buf (s : State) : (s.stepDone).buf = s.buf := rfl
@[simp] theorem State.stepDone_words (s : State) : (s.stepDone).words = s.words := rfl
@[simp] theorem State.stepDone_op (s : State) : (s.stepDone).op = s.op := rfl
@[simp] theorem State.stepDone_stepNo (s : State) : (s.stepDone).stepNo = s.stepNo + 1 := rfl
@[simp] theorem State.stepDone_busy (s : State) : (s.stepDone).busy = s.busy := rfl
@[simp] theorem State.stepDone_result (s : State) : (s.stepDone).result = s.result := rfl
@[simp] theorem State.stepDone_faults (s : State) : (s.stepDone).faults = s.faults := rfl
@[simp] theorem State.stepDone_params (s : State) : (s.stepDone).params = s.params := rfl
@[simp] theorem State.stepDone_phase (s : State) : (s.stepDone).phase = .ready := rfl
@[simp] theorem State.stepDone_live (s : State) : (s.stepDone).live = 0 := rfl
@[simp] theorem State.stepDone_caller (s : State) : (s.stepDone).caller = s.caller := rfl
@[simp] theorem State.stepDone_answers (s : State) : (s.stepDone).answers = s.answers := rfl
@[simp] theorem State.stepDone_thereafter (s : State) : (s.stepDone).thereafter = s.thereafter := rfl
@[simp] theorem State.stepDone_trace (s : State) : (s.stepDone).trace = s.trace := rfl

@[simp] theorem State.accept_acc (s : State) (o : Op) : (s.accept o).acc = s.acc := rfl
@[simp] theorem State.accept_buf (s : State) (o : Op) : (s.accept o).buf = s.buf := rfl
@[simp] theorem State.accept_words (s : State) (o : Op) : (s.accept o).words = [] := rfl
@[simp] theorem State.accept_op (s : State) (o : Op) : (s.accept o).op = some o := rfl
@[simp] theorem State.accept_stepNo (s : State) (o : Op) : (s.accept o).stepNo = 0 := rfl
@[simp] theorem State.accept_busy (s : State) (o : Op) : (s.accept o).busy = true := rfl
@[simp] theorem State.accept_result (s : State) (o : Op) : (s.accept o).result = s.result := rfl
@[simp] theorem State.accept_faults (s : State) (o : Op) : (s.accept o).faults = s.faults := rfl
@[simp] theorem State.accept_params (s : State) (o : Op) : (s.accept o).params = s.params := rfl
@[simp] theorem State.accept_phase (s : State) (o : Op) : (s.accept o).phase = .ready := rfl
@[simp] theorem State.accept_live (s : State) (o : Op) : (s.accept o).live = 0 := rfl
@[simp] theorem State.accept_caller (s : State) (o : Op) : (s.accept o).caller = s.caller := rfl
@[simp] theorem State.accept_answers (s : State) (o : Op) : (s.accept o).answers = s.answers := rfl
@[simp] theorem State.accept_thereafter (s : State) (o : Op) : (s.accept o).thereafter = s.thereafter := rfl
@[simp] theorem State.accept_trace (s : State) (o : Op) : (s.accept o).trace = s.trace := rfl

@[simp] theorem State.raise_acc (s : State) (e : Error) : (s.raise e).acc = s.acc := rfl
@[simp] theorem State.raise_buf (s : State) (e : Error) : (s.raise e).buf = s.buf := rfl
@[simp] theorem State.raise_words (s : State) (e : Error) : (s.raise e).words = s.words := rfl
@[simp] theorem State.raise_op (s : State) (e : Error) : (s.raise e).op = s.op := rfl
@[simp] theorem State.raise_stepNo (s : State) (e : Error) : (s.raise e).stepNo = s.stepNo := rfl
@[simp] theorem State.raise_busy (s : State) (e : Error) : (s.raise e).busy = s.busy := rfl
@[simp] theorem State.raise_result (s : State) (e : Error) : (s.raise e).result = s.result := rfl
@[simp] theorem State.raise_faults (s : State) (e : Error) : (s.raise e).faults = s.faults := rfl
@[simp] theorem State.raise_params (s : State) (e : Error) : (s.raise e).params = s.params := rfl
@[simp] theorem State.raise_phase (s : State) (e : Error) : (s.raise e).phase = .respond (.err e) := rfl
@[simp] theorem State.raise_live (s : State) (e : Error) : (s.raise e).live = 0 := rfl
@[simp] theorem State.raise_caller (s : State) (e : Error) : (s.raise e).caller = s.caller := rfl
@[simp] theorem State.raise_answers (s : State) (e : Error) : (s.raise e).answers = s.answers := rfl
@[simp] theorem State.raise_thereafter (s : State) (e : Error) : (s.raise e).thereafter = s.thereafter := rfl
@[simp] theorem State.raise_trace (s : State) (e : Error) : (s.raise e).trace = s.trace := rfl

@[simp] theorem State.emit_acc (s : State) (r : Response) : (s.emit r).acc = s.acc := rfl
@[simp] theorem State.emit_buf (s : State) (r : Response) : (s.emit r).buf = s.buf := rfl
@[simp] theorem State.emit_words (s : State) (r : Response) : (s.emit r).words = s.words := rfl
@[simp] theorem State.emit_op (s : State) (r : Response) : (s.emit r).op = none := rfl
@[simp] theorem State.emit_stepNo (s : State) (r : Response) : (s.emit r).stepNo = 0 := rfl
@[simp] theorem State.emit_busy (s : State) (r : Response) : (s.emit r).busy = false := rfl
@[simp] theorem State.emit_result (s : State) (r : Response) : (s.emit r).result = some r := rfl
@[simp] theorem State.emit_faults (s : State) (r : Response) : (s.emit r).faults = s.faults := rfl
@[simp] theorem State.emit_params (s : State) (r : Response) : (s.emit r).params = s.params := rfl
@[simp] theorem State.emit_phase (s : State) (r : Response) : (s.emit r).phase = .ready := rfl
@[simp] theorem State.emit_live (s : State) (r : Response) : (s.emit r).live = s.live := rfl
@[simp] theorem State.emit_caller (s : State) (r : Response) : (s.emit r).caller = s.caller := rfl
@[simp] theorem State.emit_answers (s : State) (r : Response) : (s.emit r).answers = s.answers := rfl
@[simp] theorem State.emit_thereafter (s : State) (r : Response) : (s.emit r).thereafter = s.thereafter := rfl
@[simp] theorem State.emit_trace (s : State) (r : Response) : (s.emit r).trace = s.trace := rfl

@[simp] theorem State.accInit_acc (s : State) : (s.accInit).acc = some crcInit := rfl
@[simp] theorem State.accInit_buf (s : State) : (s.accInit).buf = s.buf := rfl
@[simp] theorem State.accInit_words (s : State) : (s.accInit).words = s.words := rfl
@[simp] theorem State.accInit_op (s : State) : (s.accInit).op = s.op := rfl
@[simp] theorem State.accInit_stepNo (s : State) : (s.accInit).stepNo = s.stepNo := rfl
@[simp] theorem State.accInit_busy (s : State) : (s.accInit).busy = s.busy := rfl
@[simp] theorem State.accInit_result (s : State) : (s.accInit).result = s.result := rfl
@[simp] theorem State.accInit_faults (s : State) : (s.accInit).faults = s.faults := rfl
@[simp] theorem State.accInit_params (s : State) : (s.accInit).params = s.params := rfl
@[simp] theorem State.accInit_phase (s : State) : (s.accInit).phase = s.phase := rfl
@[simp] theorem State.accInit_live (s : State) : (s.accInit).live = s.live := rfl
@[simp] theorem State.accInit_caller (s : State) : (s.accInit).caller = s.caller := rfl
@[simp] theorem State.accInit_answers (s : State) : (s.accInit).answers = s.answers := rfl
@[simp] theorem State.accInit_thereafter (s : State) : (s.accInit).thereafter = s.thereafter := rfl
@[simp] theorem State.accInit_trace (s : State) : (s.accInit).trace = s.trace := rfl

end Sys2Proof.Machine
end

