-- ==== Sys2Proof/Laws/Ops.lean ====
section
/-! SUPPORT. One lemma per shared operation that says what it can do, for proofs to cite instead of unfolding it. -/

namespace Sys2Proof.Machine

/-! ### The environment -/

/-- Consuming an answer changes nothing but the answers left. -/
theorem State.draw_eq {s s' : State} {d : Draw} (h : s.draw = some (d, s')) :
    ∃ as, s' = { s with answers := as } := by
  unfold State.draw at h
  split at h
  · simp only [Option.some.injEq, Prod.mk.injEq] at h
    exact ⟨_, h.2.symm⟩
  · split at h
    · simp only [Option.some.injEq, Prod.mk.injEq] at h
      exact ⟨s.answers, by rw [← h.2]⟩
    · cases h

theorem State.draw_cons {s : State} {d : Draw} {rest : List Draw} (h : s.answers = d :: rest) :
    s.draw = some (d, { s with answers := rest }) := by
  unfold State.draw; rw [h]

theorem State.draw_failing {s : State} {c : TransportCause} (h : s.answers = [])
    (hc : s.thereafter = some c) : s.draw = some (.err c, s) := by
  unfold State.draw; rw [h, hc]

theorem State.draw_silent {s : State} (h : s.answers = []) (hc : s.thereafter = none) : s.draw = none := by
  unfold State.draw; rw [h, hc]

/-- Two states with the same transport are answered alike. -/
theorem State.draw_congr {s s' t : State} {d : Draw} (h : s.draw = some (d, s')) (ha : t.answers = s.answers)
    (hc : t.thereafter = s.thereafter) : t.draw = some (d, { t with answers := s'.answers }) := by
  cases e : s.answers with
  | cons x xs =>
    rw [State.draw_cons e] at h
    cases h
    exact State.draw_cons (ha.trans e)
  | nil =>
    cases e' : s.thereafter with
    | none => rw [State.draw_silent e e'] at h; cases h
    | some c =>
      rw [State.draw_failing e e'] at h
      cases h
      rw [State.draw_failing (ha.trans e) (hc.trans e'), ← ha]

/-! ### Bus primitives -/

theorem busWrite_waits {f : List Byte} {s : State} (h : s.draw = none) : busWrite f s = .next s := by
  unfold busWrite; rw [h]

theorem busWrite_ok {f : List Byte} {s s' : State} {r : Vector Byte 6} (h : s.draw = some (.ok r, s')) :
    busWrite f s = .next (s'.record (.write s.params.devAddr f (.ok []))).stepDone := by
  unfold busWrite; rw [h]

theorem busWrite_err {f : List Byte} {s s' : State} {c : TransportCause} (h : s.draw = some (.err c, s')) :
    busWrite f s =
      .next ((s'.record (.write s.params.devAddr f (.err c))).raise (.transportFailure c)) := by
  unfold busWrite; rw [h]

/-- A bus write waits, completes its step, or raises TransportFailure. -/
theorem busWrite_cases (f : List Byte) (s : State) :
    busWrite f s = .next s ∨
    (∃ as, busWrite f s =
      .next (State.stepDone (State.record { s with answers := as } (.write s.params.devAddr f (.ok []))))) ∨
    ∃ as c, busWrite f s =
      .next (State.raise (State.record { s with answers := as } (.write s.params.devAddr f (.err c)))
        (.transportFailure c)) := by
  cases h : s.draw with
  | none => exact .inl (busWrite_waits h)
  | some x =>
    obtain ⟨d, s'⟩ := x
    obtain ⟨as, rfl⟩ := State.draw_eq h
    cases d with
    | ok r => exact .inr (.inl ⟨as, busWrite_ok h⟩)
    | err c => exact .inr (.inr ⟨as, c, busWrite_err h⟩)

theorem deliver_of_le {n : Nat} (bytes : List Byte) (s : State) (h : 3 * n ≤ bufSize) :
    deliver n bytes s =
      .next { s with buf := s.buf.writeBytes 0 bytes, live := 3 * n, phase := .checkHi n 0 } := by
  unfold deliver; rw [if_pos h]

/-- A successful read fills BUF and begins validation, or asks for more bytes than BUF has. -/
theorem deliver_cases (n : Nat) (bytes : List Byte) (s : State) :
    deliver n bytes s = .fault .outsideBuffer ∨
    3 * n ≤ bufSize ∧ deliver n bytes s =
      .next { s with buf := s.buf.writeBytes 0 bytes, live := 3 * n, phase := .checkHi n 0 } := by
  by_cases h : 3 * n ≤ bufSize
  · exact .inr ⟨h, deliver_of_le bytes s h⟩
  · left; unfold deliver; rw [if_neg h]

theorem execRead_waits {f : List Byte} {n : Nat} {s : State} (h : s.draw = none) : execRead f n s = .next s := by
  unfold execRead; rw [h]

theorem execRead_ok {f : List Byte} {n : Nat} {s s' : State} {r : Vector Byte 6}
    (h : s.draw = some (.ok r, s')) :
    execRead f n s = deliver n (r.toList.take (3 * n))
      (s'.record (.writeRead s.params.devAddr f (3 * n) (.ok (r.toList.take (3 * n))))) := by
  unfold execRead; rw [h]

theorem execRead_err {f : List Byte} {n : Nat} {s s' : State} {c : TransportCause}
    (h : s.draw = some (.err c, s')) :
    execRead f n s = .next ((s'.record
      (.writeRead s.params.devAddr f (3 * n) (.err c))).openTransaction.goto (.retryDelay n 0)) := by
  unfold execRead; rw [h]

/-- A combined transaction waits, delivers its bytes, or falls back to the retry loop. -/
theorem execRead_cases (f : List Byte) (n : Nat) (s : State) :
    execRead f n s = .next s ∨
    (∃ (as : List Draw) (r : Vector Byte 6), execRead f n s = deliver n (r.toList.take (3 * n))
      (State.record { s with answers := as }
        (.writeRead s.params.devAddr f (3 * n) (.ok (r.toList.take (3 * n)))))) ∨
    ∃ as c, execRead f n s = .next (State.goto (State.openTransaction (State.record { s with answers := as }
      (.writeRead s.params.devAddr f (3 * n) (.err c)))) (.retryDelay n 0)) := by
  cases h : s.draw with
  | none => exact .inl (execRead_waits h)
  | some x =>
    obtain ⟨d, s'⟩ := x
    obtain ⟨as, rfl⟩ := State.draw_eq h
    cases d with
    | ok r => exact .inr (.inl ⟨as, r, execRead_ok h⟩)
    | err c => exact .inr (.inr ⟨as, c, execRead_err h⟩)

theorem retryRead_waits {n a : Nat} {s : State} (h : s.draw = none) : retryRead n a s = .next s := by
  unfold retryRead; rw [h]

theorem retryRead_ok {n a : Nat} {s s' : State} {r : Vector Byte 6} (h : s.draw = some (.ok r, s')) :
    retryRead n a s = deliver n (r.toList.take (3 * n))
      (s'.record (.read s.params.devAddr (3 * n) (.ok (r.toList.take (3 * n))))) := by
  unfold retryRead; rw [h]

theorem retryRead_err {n a : Nat} {s s' : State} {c : TransportCause} (h : s.draw = some (.err c, s')) :
    retryRead n a s = .next (retryFailed n a c (s'.record (.read s.params.devAddr (3 * n) (.err c)))) := by
  unfold retryRead; rw [h]

/-- A failed bare read goes back to the delay, or under a bound it has reached raises RetriesExhausted. -/
theorem retryFailed_cases (n a : Nat) (c : TransportCause) (s : State) :
    (retryFailed n a c s = s.goto (.retryDelay n (a + 1)) ∧ s.params.retry ≠ .bounded (a + 1)) ∨
    (retryFailed n a c s = s.raise (.retriesExhausted c) ∧ s.params.retry = .bounded (a + 1)) := by
  unfold retryFailed
  split
  · rename_i k hk
    split
    · subst k; exact .inr ⟨rfl, hk⟩
    · refine .inl ⟨rfl, ?_⟩
      rw [hk]
      intro e
      cases e
      contradiction
  · rename_i hu
    exact .inl ⟨rfl, by rw [hu]; exact RetryPolicy.noConfusion⟩

/-- A bare read waits, delivers its bytes, or fails. -/
theorem retryRead_cases (n a : Nat) (s : State) :
    retryRead n a s = .next s ∨
    (∃ (as : List Draw) (r : Vector Byte 6), retryRead n a s = deliver n (r.toList.take (3 * n))
      (State.record { s with answers := as } (.read s.params.devAddr (3 * n) (.ok (r.toList.take (3 * n)))))) ∨
    ∃ as c, retryRead n a s = .next (retryFailed n a c
      (State.record { s with answers := as } (.read s.params.devAddr (3 * n) (.err c)))) := by
  cases h : s.draw with
  | none => exact .inl (retryRead_waits h)
  | some x =>
    obtain ⟨d, s'⟩ := x
    obtain ⟨as, rfl⟩ := State.draw_eq h
    cases d with
    | ok r => exact .inr (.inl ⟨as, r, retryRead_ok h⟩)
    | err c => exact .inr (.inr ⟨as, c, retryRead_err h⟩)

/-! ### Reading BUF -/

theorem State.bufByte_value {s : State} {a : Nat} {b : Byte} (h : s.buf.read a = some b) (hl : a < s.live)
    (hb : a < bufSize) : s.bufByte a = .value b := by
  unfold State.bufByte
  rw [if_neg (by omega), if_neg (by omega), h]

theorem State.bufByte_unwritten {s : State} {a : Nat} (hu : s.live ≤ a ∨ s.buf.read a = none) (hb : a < bufSize) :
    s.bufByte a = .unwritten := by
  unfold State.bufByte
  rw [if_neg (by omega)]
  split
  · rfl
  · rcases hu with h | h
    · contradiction
    · rw [h]

theorem State.wordBytes_value {s : State} {i : Nat} {h l c : Byte} (hi : i < 2) (hl : 3 * i + 3 ≤ s.live)
    (h0 : s.buf.read (3 * i) = some h) (h1 : s.buf.read (3 * i + 1) = some l)
    (h2 : s.buf.read (3 * i + 2) = some c) : s.wordBytes i = .value (h, l, c) := by
  unfold State.wordBytes
  rw [State.bufByte_value h0 (by omega) (by simp [bufSize]; omega),
    State.bufByte_value h1 (by omega) (by simp [bufSize]; omega),
    State.bufByte_value h2 (by omega) (by simp [bufSize]; omega)]

/-- A byte of BUF that exists is read, or is unwritten. -/
theorem State.bufByte_ne_outside {s : State} {a : Nat} (ha : a < bufSize) : s.bufByte a ≠ .outside := by
  intro h
  unfold State.bufByte at h
  rw [if_neg (by omega)] at h
  split at h
  · cases h
  · split at h <;> cases h

/-- A word of BUF that exists is read, or is unwritten. -/
theorem State.wordBytes_ne_outside {s : State} {i : Nat} (hi : i < 2) : s.wordBytes i ≠ .outside := by
  intro h
  have o0 := s.bufByte_ne_outside (a := 3 * i) (by simp [bufSize]; omega)
  have o1 := s.bufByte_ne_outside (a := 3 * i + 1) (by simp [bufSize]; omega)
  have o2 := s.bufByte_ne_outside (a := 3 * i + 2) (by simp [bufSize]; omega)
  unfold State.wordBytes at h
  cases e0 : s.bufByte (3 * i) <;> cases e1 : s.bufByte (3 * i + 1) <;> cases e2 : s.bufByte (3 * i + 2) <;>
    simp_all

/-- A word one of whose bytes the current transaction has not written is unwritten. -/
theorem State.wordBytes_unwritten {s : State} {i a : Nat} (hi : i < 2) (h1 : 3 * i ≤ a) (h2 : a < 3 * i + 3)
    (hu : s.live ≤ a ∨ s.buf.read a = none) : s.wordBytes i = .unwritten := by
  have hn : s.bufByte a = .unwritten := s.bufByte_unwritten hu (by simp [bufSize]; omega)
  have ho := s.wordBytes_ne_outside hi
  have ha : a = 3 * i ∨ a = 3 * i + 1 ∨ a = 3 * i + 2 := by omega
  unfold State.wordBytes at ho ⊢
  rcases ha with rfl | rfl | rfl <;> rw [hn] at ho ⊢ <;>
    cases e0 : s.bufByte (3 * i) <;> cases e1 : s.bufByte (3 * i + 1) <;> cases e2 : s.bufByte (3 * i + 2) <;>
    simp_all

theorem State.assembleWord_value {s : State} {i : Nat} {h l : Byte} (hi : i < 2) (hl : 3 * i + 3 ≤ s.live)
    (h0 : s.buf.read (3 * i) = some h) (h1 : s.buf.read (3 * i + 1) = some l) :
    s.assembleWord i = .value (wordOf h l) := by
  unfold State.assembleWord
  rw [State.bufByte_value h0 (by omega) (by simp [bufSize]; omega),
    State.bufByte_value h1 (by omega) (by simp [bufSize]; omega)]

/-! ### The accumulate, the check and validation -/

/-- CRC_REFIN is 0: no byte is reflected (R40). -/
@[simp] theorem reflectIf_refin (b : Byte) : reflectIf crcRefin b = b := rfl

/-- CRC_REFOUT is 0: the accumulator is not reflected (R40). -/
@[simp] theorem reflectIf_refout (b : Byte) : reflectIf crcRefout b = b := rfl

theorem fold_eq (acc b : Byte) : fold acc b = crcTable (acc ^^^ b) := rfl

/-- A checksum is the last accumulator: CRC_REFOUT and CRC_XOROUT are 0 (R40). -/
theorem checksumOut_eq (acc : Byte) : checksumOut acc = acc := BitVec.xor_zero

@[simp] theorem accStep_some {s : State} {a : Byte} (b : Byte) (go : Byte → State → Out) (h : s.acc = some a) :
    accStep b s go = go (fold a b) (s.setAcc (fold a b)) := by
  unfold accStep; rw [h]

@[simp] theorem accStep_none {s : State} (b : Byte) (go : Byte → State → Out) (h : s.acc = none) :
    accStep b s go = readUnwritten s := by
  unfold accStep; rw [h]

@[simp] theorem accStep_accInit (b : Byte) (s : State) (go : Byte → State → Out) :
    accStep b s.accInit go = go (fold crcInit b) (s.setAcc (fold crcInit b)) := rfl

/-- The first accumulate of a check with the word's bytes at hand. -/
theorem checkHi_value {n i : Nat} {s : State} {h l c : Byte} (hw : s.wordBytes i = .value (h, l, c)) :
    checkHi n i s = .next ((s.setAcc (fold crcInit h)).goto (.checkLo n i)) := by
  unfold checkHi; rw [hw]; rfl

/-- A check that finds a byte of its word unwritten. -/
theorem check_unwritten {n i : Nat} {s : State} (hw : s.wordBytes i = .unwritten) :
    checkHi n i s = readUnwritten s ∧ checkLo n i s = readUnwritten s := by
  unfold checkHi checkLo; rw [hw]; exact ⟨rfl, rfl⟩

/-- A check that finds ACC unwritten at its second accumulate, whether or not its word is written. -/
theorem checkLo_acc_unwritten {n i : Nat} {s : State} (hi : i < 2) (ha : s.acc = none) :
    checkLo n i s = readUnwritten s := by
  unfold checkLo
  split
  · exact accStep_none _ _ ha
  · rfl
  · exact absurd ‹_› (s.wordBytes_ne_outside hi)

/-- The second accumulate of a check with the word's bytes and ACC at hand. -/
theorem checkLo_value {n i : Nat} {s : State} {h l c a : Byte} (hw : s.wordBytes i = .value (h, l, c))
    (ha : s.acc = some a) :
    checkLo n i s =
      if c = checksumOut (fold a l) then
        if i + 1 < n then .next ((s.setAcc (fold a l)).goto (.checkHi n (i + 1)))
        else appendValidated n (s.setAcc (fold a l))
      else .next ((s.setAcc (fold a l)).raise .checksumMismatch) := by
  unfold checkLo; rw [hw, ]; simp only [accStep_some _ _ ha]

@[simp] theorem checksumOut_fold (h l : Byte) : checksumOut (fold (fold crcInit h) l) = checksum h l := rfl

/-! ### Commands and requests -/

theorem transact_zero (f : List Byte) (s : State) : transact f 0 s = busWrite f s := rfl

theorem transact_read {f : List Byte} {n : Nat} {s : State} (h : n = 1 ∨ n = 2) :
    transact f n s = execRead f n s := by
  rcases h with rfl | rfl <;> rfl

theorem transact_invalid {f : List Byte} {n : Nat} {s : State} (h : 2 < n) :
    transact f n s = .next (s.raise .invalidInput) := by
  unfold transact; rw [if_pos (by simpa [maxWords] using h)]

theorem startCommand_some {r n : Nat} {m : LowPowerMode} {s : State} {code : Word}
    (h : s.params.start r m = some code) : startCommand r m n s = transact (enc code) n s := by
  unfold startCommand; rw [h]

theorem triggerCommand_reads {m : LowPowerMode} {s : State} (h : ∀ r m', s.op ≠ some (.autoStart r m')) :
    triggerCommand m s = startCommand 0 m 2 s := by
  unfold triggerCommand
  split
  · rename_i r m' e; exact absurd e (h r m')
  · rfl

theorem triggerCommand_autoStart {m m' : LowPowerMode} {r : Nat} {s : State}
    (h : s.op = some (.autoStart r m')) : triggerCommand m s = startCommand 0 m 0 s := by
  unfold triggerCommand; rw [h]

theorem present_idle {op : Op} {s : State} (hw : op.wf s.params = true) (hb : s.busy = false) :
    present op s = .next (s.accept op) := by
  unfold present; rw [if_pos hw, hb]; rfl

theorem present_busy {op : Op} {s : State} (hw : op.wf s.params = true) (hb : s.busy = true) :
    present op s = .next s.addReentrant := by
  unfold present; rw [if_pos hw, hb]; rfl

/-- A request is accepted, refused as reentrant, or has an operand outside its type. -/
theorem present_cases (op : Op) (s : State) :
    present op s = .refused .noSuchOperand ∨
    (op.wf s.params = true ∧ s.busy = false ∧ present op s = .next (s.accept op)) ∨
    (op.wf s.params = true ∧ s.busy = true ∧ present op s = .next s.addReentrant) := by
  by_cases hw : op.wf s.params = true
  · cases hb : s.busy with
    | false => exact .inr (.inl ⟨hw, rfl, present_idle hw hb⟩)
    | true => exact .inr (.inr ⟨hw, rfl, present_busy hw hb⟩)
  · left; unfold present; rw [if_neg hw]

theorem finish_value {op : Op} {s : State} {v : Value} (h : successValue op s.words = some v) :
    finish op s = .next (s.emit (.ok v)) := by
  unfold finish; rw [h]

end Sys2Proof.Machine
end

