-- ==== Sys2Proof/Laws/Step.lean ====
section
/-! SUPPORT. What exec and step can do: inversion lemmas for proofs over all instructions and all states. -/

namespace Sys2Proof.Machine

/-! ### exec -/

/-- A request row presents its request. -/
theorem exec_request {i : Instr} {op : Op} (h : i.opOf = some op) (s : State) : exec i s = present op s := by
  cases i <;> simp only [Instr.opOf, Option.some.injEq, reduceCtorEq] at h <;> subst h <;> rfl

@[simp] theorem exec_instr (op : Op) (s : State) : exec op.instr s = present op s :=
  exec_request (Op.opOf_instr op) s

/-- A start command is refused, or writes, or reads two words back. -/
theorem startCommand_cases (r n : Nat) (m : LowPowerMode) (s : State) (hn : n = 0 ∨ n = 2) :
    (∃ q, startCommand r m n s = .refused q) ∨ (∃ f, startCommand r m n s = busWrite f s) ∨
      ∃ f, startCommand r m n s = execRead f 2 s := by
  unfold startCommand
  split
  · rcases hn with rfl | rfl
    · exact .inr (.inl ⟨_, rfl⟩)
    · exact .inr (.inr ⟨_, rfl⟩)
  · exact .inl ⟨_, rfl⟩

theorem triggerCommand_cases (m : LowPowerMode) (s : State) :
    (∃ q, triggerCommand m s = .refused q) ∨ (∃ f, triggerCommand m s = busWrite f s) ∨
      ∃ f, triggerCommand m s = execRead f 2 s := by
  unfold triggerCommand
  split
  · exact startCommand_cases 0 0 m s (.inl rfl)
  · exact startCommand_cases 0 2 m s (.inr rfl)

/-- A command row is refused, or is one bus write, or is one combined transaction for 1 or 2 words. -/
theorem exec_command {i : Instr} (h : i.opOf = none) (s : State) :
    (∃ q, exec i s = .refused q) ∨ (∃ f, exec i s = busWrite f s) ∨
      ∃ f n, (n = 1 ∨ n = 2) ∧ exec i s = execRead f n s := by
  have start : ∀ r m, exec i s = startCommand r m 0 s →
      (∃ q, exec i s = .refused q) ∨ (∃ f, exec i s = busWrite f s) ∨
        ∃ f n, (n = 1 ∨ n = 2) ∧ exec i s = execRead f n s := by
    intro r m e
    rw [e]
    rcases startCommand_cases r 0 m s (.inl rfl) with h | h | ⟨f, h⟩
    · exact .inl h
    · exact .inr (.inl h)
    · exact .inr (.inr ⟨f, 2, .inr rfl, h⟩)
  have trigger : ∀ m, exec i s = triggerCommand m s →
      (∃ q, exec i s = .refused q) ∨ (∃ f, exec i s = busWrite f s) ∨
        ∃ f n, (n = 1 ∨ n = 2) ∧ exec i s = execRead f n s := by
    intro m e
    rw [e]
    rcases triggerCommand_cases m s with h | h | ⟨f, h⟩
    · exact .inl h
    · exact .inr (.inl h)
    · exact .inr (.inr ⟨f, 2, .inr rfl, h⟩)
  cases i <;> first
    | exact trigger _ rfl
    | exact start _ _ rfl
    | exact .inr (.inl ⟨_, rfl⟩)
    | exact .inr (.inr ⟨_, 1, .inl rfl, rfl⟩)
    | exact .inr (.inr ⟨_, 2, .inr rfl, rfl⟩)
    | (simp only [Instr.opOf, reduceCtorEq] at h)

/-! ### fetch -/

theorem fetch_nil {s : State} (h : s.caller = []) : fetch s = fetchBlock s := by
  unfold fetch; rw [h]

/-- A busy block leaves a waiting caller's requests alone. -/
theorem fetch_waiting {s : State} (hb : s.busy = true) (hw : Waiting s.caller) : fetch s = fetchBlock s := by
  unfold fetch
  split
  · rfl
  · rename_i rest h
    obtain ⟨op, e⟩ := hw .hold (by rw [h]; exact List.mem_cons_self ..)
    cases e
  · rename_i o rest h
    obtain ⟨op, e⟩ := hw (.barge o) (by rw [h]; exact List.mem_cons_self ..)
    cases e
  · rw [if_pos hb]

theorem fetch_request {s : State} {op : Op} {rest : List CallerMove} (h : s.caller = .request op :: rest)
    (hb : s.busy = false) : fetch s = .run op.instr { s with caller := rest } := by
  unfold fetch; rw [h]; simp [hb]

theorem fetch_barge {s : State} {op : Op} {rest : List CallerMove} (h : s.caller = .barge op :: rest) :
    fetch s = .run op.instr { s with caller := rest } := by
  unfold fetch; rw [h]

theorem fetch_hold {s : State} {rest : List CallerMove} (h : s.caller = .hold :: rest) :
    fetch s = fetchBlock { s with caller := rest } := by
  unfold fetch; rw [h]

/-- What the block's own next step answers. -/
def blockStep (s : State) : Out :=
  match fetchBlock s with
  | .run i s' => exec i s'
  | .internal o => o

/-- A step is a request presented, or the block's own step after the caller held or waited. -/
theorem step_cases (s : State) :
    (∃ op rest, (s.caller = .request op :: rest ∨ s.caller = .barge op :: rest) ∧
      step s = present op { s with caller := rest }) ∨
    (∃ rest, s.caller = .hold :: rest ∧ step s = blockStep { s with caller := rest }) ∨
    step s = blockStep s := by
  unfold step blockStep fetch
  split
  · rename_i h
    split at h
    · exact .inr (.inr (by rw [h]))
    · rename_i rest hc; exact .inr (.inl ⟨rest, hc, by rw [h]⟩)
    · rename_i op rest hc
      cases h
      exact .inl ⟨op, rest, .inr hc, exec_instr ..⟩
    · rename_i op rest hc
      split at h
      · exact .inr (.inr (by rw [h]))
      · cases h
        exact .inl ⟨op, rest, .inl hc, exec_instr ..⟩
  · rename_i h
    split at h
    · exact .inr (.inr (by rw [h]))
    · rename_i rest hc; exact .inr (.inl ⟨rest, hc, by rw [h]⟩)
    · cases h
    · split at h
      · exact .inr (.inr (by rw [h]))
      · cases h

theorem step_waiting {s : State} (hb : s.busy = true) (hw : Waiting s.caller) : step s = blockStep s := by
  rw [step, fetch_waiting hb hw]; rfl

/-! ### The block's own step, by its position -/

theorem blockStep_idle {s : State} (hb : s.busy = false) : blockStep s = .next s := by
  unfold blockStep fetchBlock; simp [hb]

theorem blockStep_retryDelay {s : State} {n a : Nat} (hb : s.busy = true) (hp : s.phase = .retryDelay n a) :
    blockStep s = retryDelay n a s := by
  unfold blockStep fetchBlock; simp [hb, hp]

theorem blockStep_retryRead {s : State} {n a : Nat} (hb : s.busy = true) (hp : s.phase = .retryRead n a) :
    blockStep s = retryRead n a s := by
  unfold blockStep fetchBlock; simp [hb, hp]

theorem blockStep_checkHi {s : State} {n i : Nat} (hb : s.busy = true) (hp : s.phase = .checkHi n i) :
    blockStep s = checkHi n i s := by
  unfold blockStep fetchBlock; simp [hb, hp]

theorem blockStep_checkLo {s : State} {n i : Nat} (hb : s.busy = true) (hp : s.phase = .checkLo n i) :
    blockStep s = checkLo n i s := by
  unfold blockStep fetchBlock; simp [hb, hp]

theorem blockStep_sumLo {s : State} {b1 : Byte} (hb : s.busy = true) (hp : s.phase = .sumLo b1) :
    blockStep s = sumLo b1 s := by
  unfold blockStep fetchBlock; simp [hb, hp]

theorem blockStep_respond {s : State} {r : Response} (hb : s.busy = true) (hp : s.phase = .respond r) :
    blockStep s = .next (s.emit r) := by
  unfold blockStep fetchBlock; simp [hb, hp]

/-- The beginning of step STEP of OP. -/
theorem blockStep_ready {s : State} {op : Op} (hb : s.busy = true) (hp : s.phase = .ready) (ho : s.op = some op) :
    blockStep s =
      match action s.params op s.stepNo with
      | .run i => exec i s
      | .start r m => startCommand r m 0 s
      | .direct cmd n => transact (enc cmd) n s
      | .sum b0 b1 => sumHi b0 b1 s
      | .finish => finish op s
      | .noOperand => .refused .noSuchOperand := by
  unfold blockStep fetchBlock fetchReady
  simp only [hb, hp, ho, if_true]
  cases action s.params op s.stepNo <;> rfl

theorem blockStep_ready_none {s : State} (hb : s.busy = true) (hp : s.phase = .ready) (ho : s.op = none) :
    blockStep s = .fault .noRule := by
  unfold blockStep fetchBlock fetchReady; simp [hb, hp, ho]

/-! ### Runs -/

@[simp] theorem run_zero (s : State) : run 0 s = .next s := rfl

theorem run_succ {s t : State} (h : step s = .next t) (k : Nat) : run (k + 1) s = run k t := by
  simp only [run, h]

theorem run_add {s t : State} (j : Nat) : ∀ {k : Nat}, run k s = .next t → run (k + j) s = run j t := by
  intro k
  induction k generalizing s with
  | zero => intro h; cases h; simp
  | succ k ih =>
    intro h
    unfold run at h
    cases e : step s with
    | next u => rw [e] at h; rw [Nat.succ_add, run_succ e]; exact ih h
    | fault r => rw [e] at h; cases h
    | refused r => rw [e] at h; cases h

/-- The runs of the statements are the host's runs. -/
theorem run_eq_core (k : Nat) (s : State) : run k s = Sys2Proof.core.run k s := by
  induction k generalizing s with
  | zero => rfl
  | succ k ih =>
    cases h : step s with
    | next t =>
      have h' : Sys2Proof.core.step s = .next t := h
      simp only [run, Host.Core.run, h, h']
      exact ih t
    | fault r =>
      have h' : Sys2Proof.core.step s = .fault r := h
      simp only [run, Host.Core.run, h, h']
      rfl
    | refused r =>
      have h' : Sys2Proof.core.step s = .refused r := h
      simp only [run, Host.Core.run, h, h']
      rfl

end Sys2Proof.Machine
end

