-- ==== Sys2Proof/Laws/Sequencer.lean ====
section
/-! SUPPORT. The block's own step: everything it can do from any state, and what it does at the beginning of a step of a
well-typed operation. -/

namespace Sys2Proof.Machine

/-- Everything the block's own step can do. -/
inductive Move (s : State) : State → Prop where
  | stay : Move s s
  | unwritten (acc : Option Byte) : Move s (State.addReadUnwritten { s with acc := acc })
  | wrote (as : List Draw) (e : Event) : Move s (State.stepDone (State.record { s with answers := as } e))
  | failed (as : List Draw) (e : Event) (er : Error) : Move s (State.raise (State.record { s with answers := as } e) er)
  | received (as : List Draw) (e : Event) (n : Nat) (bytes : List Byte) (fits : bytes.length ≤ bufSize) :
      Move s { State.record { s with answers := as } e with
        buf := s.buf.writeBytes 0 bytes, live := 3 * n, phase := .checkHi n 0 }
  | retries (as : List Draw) (e : Event) (ph : Phase) (l : Nat) :
      Move s { State.record { s with answers := as } e with phase := ph, live := l }
  | accumulated (b : Byte) (ph : Phase) : Move s ((s.setAcc b).goto ph)
  | summed (b : Byte) (ph : Phase) : Move s ((s.setAcc b).stepDone.goto ph)
  | validated (b : Byte) (out : List Word) : Move s ((s.setAcc b).appendWords out).stepDone
  | raised (acc : Option Byte) (er : Error) : Move s (State.raise { s with acc := acc } er)
  | emitted (r : Response) (running : s.busy = true) : Move s (s.emit r)

theorem Move.of_busWrite {f : List Byte} {s t : State} (h : busWrite f s = .next t) : Move s t := by
  rcases busWrite_cases f s with e | ⟨as, e⟩ | ⟨as, c, e⟩ <;> rw [e] at h <;> cases h
  · exact .stay
  · exact .wrote as _
  · exact .failed as _ _

theorem Move.of_execRead {f : List Byte} {n : Nat} {s t : State} (h : execRead f n s = .next t) : Move s t := by
  rcases execRead_cases f n s with e | ⟨as, r, e⟩ | ⟨as, c, e⟩ <;> rw [e] at h
  · cases h; exact .stay
  · rcases deliver_cases n _ _ with e | ⟨hn, e⟩ <;> rw [e] at h <;> cases h
    exact .received as _ n _ (by simp only [List.length_take]; omega)
  · cases h; exact .retries as _ _ 0

theorem Move.of_retryRead {n a : Nat} {s t : State} (h : retryRead n a s = .next t) : Move s t := by
  rcases retryRead_cases n a s with e | ⟨as, r, e⟩ | ⟨as, c, e⟩ <;> rw [e] at h
  · cases h; exact .stay
  · rcases deliver_cases n _ _ with e | ⟨hn, e⟩ <;> rw [e] at h <;> cases h
    exact .received as _ n _ (by simp only [List.length_take]; omega)
  · rcases retryFailed_cases n a c _ with ⟨e, -⟩ | ⟨e, -⟩ <;> rw [e] at h <;> cases h
    · exact .retries as _ _ s.live
    · exact .failed as _ _

theorem Move.of_transact {f : List Byte} {n : Nat} {s t : State} (h : transact f n s = .next t) : Move s t := by
  unfold transact at h
  split at h
  · cases h; exact .raised s.acc _
  · split at h
    · exact .of_busWrite h
    · exact .of_execRead h

theorem Move.of_startCommand {r n : Nat} {m : LowPowerMode} {s t : State} (h : startCommand r m n s = .next t) :
    Move s t := by
  unfold startCommand at h
  split at h
  · exact .of_transact h
  · cases h

theorem Move.of_checkHi {n i : Nat} {s t : State} (h : checkHi n i s = .next t) : Move s t := by
  unfold checkHi at h
  split at h
  · rw [accStep_accInit] at h; cases h; exact .accumulated _ _
  · cases h; exact .unwritten s.acc
  · cases h

theorem Move.of_checkLo {n i : Nat} {s t : State} (h : checkLo n i s = .next t) : Move s t := by
  cases hw : s.wordBytes i with
  | value x =>
    obtain ⟨hi, l, c⟩ := x
    cases ha : s.acc with
    | some a =>
      rw [checkLo_value hw ha] at h
      split at h
      · split at h
        · cases h; exact .accumulated _ _
        · unfold appendValidated at h
          split at h
          · cases h; exact .validated _ _
          · cases h; exact .unwritten (some _)
          · cases h
      · cases h; exact .raised (some _) _
    | none =>
      unfold checkLo accStep at h
      rw [hw] at h
      simp only [ha] at h
      cases h; exact .unwritten s.acc
  | unwritten => unfold checkLo at h; rw [hw] at h; cases h; exact .unwritten s.acc
  | outside => unfold checkLo at h; rw [hw] at h; cases h

theorem Move.of_exec_command {i : Instr} {s t : State} (hi : i.opOf = none) (h : exec i s = .next t) : Move s t := by
  rcases exec_command hi s with ⟨q, e⟩ | ⟨f, e⟩ | ⟨f, n, -, e⟩ <;> rw [e] at h
  · cases h
  · exact .of_busWrite h
  · exact .of_execRead h

theorem startAction_run {r : Nat} {m : LowPowerMode} {i : Instr} (h : startAction r m = .run i) :
    Instr.ofStart r m = some i := by
  unfold startAction at h
  split at h
  · cases h; assumption
  · cases h

theorem opOf_ofStart {r : Nat} {m : LowPowerMode} {i : Instr} (h : Instr.ofStart r m = some i) :
    i.opOf = none := by
  have e := Instr.startOf_ofStart h
  cases i <;> first | rfl | (simp only [Instr.startOf, reduceCtorEq] at e)

/-- A step of an operation runs command rows only. -/
theorem action_run {p : Params} {op : Op} {k : Nat} {i : Instr} (h : action p op k = .run i) : i.opOf = none := by
  unfold action at h
  split at h <;> first
    | exact opOf_ofStart (startAction_run h)
    | (cases h; rfl)
    | (unfold configAction at h; split at h <;> cases h; rfl)
    | (rename_i target; cases target <;> cases h <;> rfl)

/-- What the block's own step can do, from any state at all. -/
theorem blockStep_move {s t : State} (h : blockStep s = .next t) : Move s t := by
  cases hb : s.busy with
  | false => rw [blockStep_idle hb] at h; cases h; exact .stay
  | true =>
    cases hp : s.phase with
    | ready =>
      cases ho : s.op with
      | none => rw [blockStep_ready_none hb hp ho] at h; cases h
      | some op =>
        rw [blockStep_ready hb hp ho] at h
        split at h
        · rename_i e; exact .of_exec_command (action_run e) h
        · exact .of_startCommand h
        · exact .of_transact h
        · unfold sumHi at h; rw [accStep_accInit] at h; cases h; exact .accumulated _ _
        · unfold finish at h
          split at h
          · cases h; exact .emitted _ hb
          · cases h
        · cases h
    | retryDelay n a =>
      rw [blockStep_retryDelay hb hp] at h; cases h; exact .retries s.answers _ _ s.live
    | retryRead n a => rw [blockStep_retryRead hb hp] at h; exact .of_retryRead h
    | checkHi n i => rw [blockStep_checkHi hb hp] at h; exact .of_checkHi h
    | checkLo n i => rw [blockStep_checkLo hb hp] at h; exact .of_checkLo h
    | sumLo b1 =>
      rw [blockStep_sumLo hb hp] at h
      unfold sumLo accStep at h
      split at h
      · cases h; exact .summed _ _
      · cases h; exact .unwritten s.acc
    | respond r => rw [blockStep_respond hb hp] at h; cases h; exact .emitted _ hb

/-! ### A waiting caller's busy block, one step at a time -/

/-- Step STEP of OP runs its command row. -/
theorem step_runs_row {s t : State} {op : Op} {k : Nat} {i : Instr} (hb : s.busy = true) (hw : Waiting s.caller)
    (hp : s.phase = .ready) (ho : s.op = some op) (hk : s.stepNo = k) (ha : action s.params op k = .run i)
    (he : exec i s = .next t) : step s = .next t := by
  rw [step_waiting hb hw, blockStep_ready hb hp ho, hk, ha]; exact he

/-- The end of the sequence emits the operation's value. -/
theorem step_finishes {s : State} {op : Op} {k : Nat} {v : Value} (hb : s.busy = true) (hw : Waiting s.caller)
    (hp : s.phase = .ready) (ho : s.op = some op) (hk : s.stepNo = k) (ha : action s.params op k = .finish)
    (he : successValue op s.words = some v) : step s = .next (s.emit (.ok v)) := by
  rw [step_waiting hb hw, blockStep_ready hb hp ho, hk, ha]; exact finish_value he

/-- A decided response is emitted. -/
theorem step_responds {s : State} {r : Response} (hb : s.busy = true) (hw : Waiting s.caller)
    (hp : s.phase = .respond r) : step s = .next (s.emit r) :=
  (step_waiting hb hw).trans (blockStep_respond hb hp)

/-- An idle block takes a waiting caller's request. -/
theorem step_accepts {s : State} {op : Op} {rest : List CallerMove} (hb : s.busy = false)
    (hc : s.caller = .request op :: rest) (hw : op.wf s.params = true) :
    step s = .next (State.accept { s with caller := rest } op) := by
  unfold step; rw [fetch_request hc hb]; simp only [exec_instr]
  rw [present_idle (s := { s with caller := rest }) hw hb]

/-! ### The beginning of a step of a well-typed operation -/

/-- The row of START(r, m) writes, or in ONE_SHOT's use of rate 0 reads. -/
theorem exec_ofStart {r : Nat} {m : LowPowerMode} {i : Instr} (h : Instr.ofStart r m = some i) (s : State) :
    exec i s = if r = 0 then triggerCommand m s else startCommand r m 0 s := by
  match r, m with
  | 0, .lpm0 | 0, .lpm1 | 0, .lpm2 | 0, .lpm3 | 1, .lpm0 | 1, .lpm1 | 1, .lpm2 | 1, .lpm3
  | 2, .lpm0 | 2, .lpm1 | 2, .lpm2 | 2, .lpm3 | 3, .lpm0 | 3, .lpm1 | 3, .lpm2 | 3, .lpm3
  | 4, .lpm0 | 4, .lpm1 | 4, .lpm2 | 4, .lpm3 | 5, .lpm0 | 5, .lpm1 | 5, .lpm2 | 5, .lpm3 =>
    cases h; rfl
  | _ + 6, .lpm0 | _ + 6, .lpm1 | _ + 6, .lpm2 | _ + 6, .lpm3 => cases h

theorem code_mem_codes (p : Params) (id : CommandId) : p.code id ∈ p.codes := by
  unfold Params.codes
  exact List.mem_append_left _ (List.mem_map_of_mem (by cases id <;> decide))

theorem start_mem_codes {p : Params} {r : Nat} {m : LowPowerMode} {code : Word} (h : p.start r m = some code) :
    code ∈ p.codes := by
  unfold Params.start at h
  split at h
  · rename_i row e
    cases h
    unfold Params.codes
    refine List.mem_append_right _ (List.mem_flatMap.mpr ⟨row, List.mem_of_getElem? e, ?_⟩)
    exact List.mem_map_of_mem (by cases m <;> decide)
  · cases h

/-- What the block does when it begins step STEP of a well-typed operation. -/
inductive Begins (s : State) (op : Op) : Prop where
  | write (f : List Byte) (step : blockStep s = busWrite f s) (count : (stepCounts op)[s.stepNo]? = some 0)
      (writes : Op.writes op = true) (notSum : ∀ b0 b1, op ≠ .checksum b0 b1)
      (legal : commandFrameLegal s.params (some op) f ∨ configFrameLegal s.params (some op) f)
  | read (f : List Byte) (n : Nat) (step : blockStep s = execRead f n s) (range : n = 1 ∨ n = 2)
      (count : (stepCounts op)[s.stepNo]? = some n) (reads : Op.reads op = true)
      (legal : commandFrameLegal s.params (some op) f)
  | invalid (cmd : Word) (n : Nat) (is : op = .exec cmd n) (range : 2 < n)
      (step : blockStep s = .next (s.raise .invalidInput))
  | sum (b0 b1 : Byte) (is : op = .checksum b0 b1) (step : blockStep s = sumHi b0 b1 s)
  | ended (step : blockStep s = finish op s) (past : (stepCounts op).length ≤ s.stepNo)

theorem commandFrameLegal_code (p : Params) (op : Option Op) (id : CommandId) :
    commandFrameLegal p op (enc (p.code id)) := .inl ⟨_, code_mem_codes p id, rfl⟩

theorem commandFrameLegal_start {p : Params} (op : Option Op) {r : Nat} {m : LowPowerMode} {code : Word}
    (h : p.start r m = some code) : commandFrameLegal p op (enc code) := .inl ⟨_, start_mem_codes h, rfl⟩

theorem begins {s : State} {op : Op} (hb : s.busy = true) (hp : s.phase = .ready) (ho : s.op = some op)
    (hs : s.params.wf = true) (hw : op.wf s.params = true) : Begins s op := by
  have h := blockStep_ready hb hp ho
  have legal := commandFrameLegal_code s.params (some op)
  have rates : 2 ≤ s.params.starts.length := by
    simp only [Params.wf, Bool.and_eq_true, decide_eq_true_eq] at hs; exact hs.1.1.1.2
  cases op with
  | oneShot m =>
    cases hk : s.stepNo with
    | succ k => rw [hk] at h; exact .ended h (by rw [hk]; simp [stepCounts])
    | zero =>
      rw [hk] at h
      have hc := Params.start_of_lt m (show 0 < s.params.starts.length by omega)
      refine .read _ 2 ?_ (.inr rfl) (by rw [hk]; rfl) rfl (commandFrameLegal_start _ hc)
      rw [h]
      cases hi : Instr.ofStart 0 m with
      | none => cases m <;> cases hi
      | some i =>
        simp only [action, startAction, hi]
        rw [exec_ofStart hi, if_pos rfl, triggerCommand_reads (by rw [ho]; simp), startCommand_some hc,
          transact_read (.inr rfl)]
  | autoStart r m =>
    cases hk : s.stepNo with
    | succ k => rw [hk] at h; exact .ended h (by rw [hk]; simp [stepCounts])
    | zero =>
      rw [hk] at h
      have hc := Params.start_of_lt m (show r < s.params.starts.length by simpa [Op.wf] using hw)
      refine .write _ ?_ (by rw [hk]; rfl) rfl (by simp) (.inl (commandFrameLegal_start _ hc))
      rw [h]
      cases hi : Instr.ofStart r m with
      | none =>
        simp only [action, startAction, hi]
        rw [startCommand_some hc, transact_zero]
      | some i =>
        simp only [action, startAction, hi]
        rw [exec_ofStart hi]
        split
        · subst r; rw [triggerCommand_autoStart ho, startCommand_some hc, transact_zero]
        · rw [startCommand_some hc, transact_zero]
  | autoRead t =>
    cases hk : s.stepNo with
    | succ k => rw [hk] at h; exact .ended h (by rw [hk]; simp [stepCounts])
    | zero =>
      rw [hk] at h
      cases t <;>
        first
          | exact .read _ 2 h (.inr rfl) (by rw [hk]; rfl) rfl (legal _)
          | exact .read _ 1 h (.inl rfl) (by rw [hk]; rfl) rfl (legal _)
  | heater l =>
    cases l with
    | zero =>
      cases hk : s.stepNo with
      | succ k => rw [hk] at h; simp only [action] at h; exact .ended h (by rw [hk]; simp [stepCounts])
      | zero => rw [hk] at h; exact .write _ h (by rw [hk]; rfl) rfl (by simp) (.inl (legal _))
    | succ l =>
      have hl : l + 1 ≤ s.params.heaterSetting.length := by simpa [Op.wf] using hw
      match hk : s.stepNo with
      | 0 => rw [hk] at h; exact .write _ h (by rw [hk]; rfl) rfl (by simp) (.inl (legal _))
      | 1 =>
        rw [hk] at h
        simp only [action, configAction, Params.setting_of_le hl] at h
        refine .write _ h (by rw [hk]; rfl) rfl (by simp) (.inr ⟨l, _, rfl, ?_, rfl⟩)
        exact List.getElem?_eq_getElem _
      | 2 => rw [hk] at h; exact .write _ h (by rw [hk]; rfl) rfl (by simp) (.inl (legal _))
      | k + 3 => rw [hk] at h; exact .ended h (by rw [hk]; simp [stepCounts])
  | readStatus c =>
    match hk : s.stepNo, c with
    | 0, true | 0, false => rw [hk] at h; exact .read _ 1 h (.inl rfl) (by rw [hk]; rfl) rfl (legal _)
    | 1, true => rw [hk] at h; exact .write _ h (by rw [hk]; rfl) rfl (by simp) (.inl (legal _))
    | k + 1, false => rw [hk] at h; simp only [action] at h; exact .ended h (by rw [hk]; simp [stepCounts])
    | k + 2, true => rw [hk] at h; exact .ended h (by rw [hk]; simp [stepCounts])
  | readSerial =>
    match hk : s.stepNo with
    | 0 | 1 | 2 => rw [hk] at h; exact .read _ 1 h (.inl rfl) (by rw [hk]; rfl) rfl (legal _)
    | k + 3 => rw [hk] at h; exact .ended h (by rw [hk]; simp [stepCounts])
  | readMfrId =>
    cases hk : s.stepNo with
    | succ k => rw [hk] at h; exact .ended h (by rw [hk]; simp [stepCounts])
    | zero => rw [hk] at h; exact .read _ 1 h (.inl rfl) (by rw [hk]; rfl) rfl (legal _)
  | autoStop =>
    cases hk : s.stepNo with
    | succ k => rw [hk] at h; exact .ended h (by rw [hk]; simp [stepCounts])
    | zero => rw [hk] at h; exact .write _ h (by rw [hk]; rfl) rfl (by simp) (.inl (legal _))
  | softReset =>
    cases hk : s.stepNo with
    | succ k => rw [hk] at h; exact .ended h (by rw [hk]; simp [stepCounts])
    | zero => rw [hk] at h; exact .write _ h (by rw [hk]; rfl) rfl (by simp) (.inl (legal _))
  | exec cmd n =>
    cases hk : s.stepNo with
    | succ k => rw [hk] at h; exact .ended h (by rw [hk]; simp [stepCounts])
    | zero =>
      rw [hk] at h
      change blockStep s = transact (enc cmd) n s at h
      by_cases h2 : 2 < n
      · exact .invalid cmd n rfl h2 (h.trans (transact_invalid h2))
      · by_cases h0 : n = 0
        · subst n
          exact .write _ (h.trans (transact_zero ..)) (by rw [hk]; rfl) rfl (by simp) (.inl (.inr ⟨cmd, 0, rfl, rfl⟩))
        · have hn : n = 1 ∨ n = 2 := by omega
          exact .read _ n (h.trans (transact_read hn)) hn (by rw [hk]; rfl) (by simpa [Op.reads] using hn)
            (.inr ⟨cmd, n, rfl, rfl⟩)
  | checksum b0 b1 =>
    cases hk : s.stepNo with
    | succ k => rw [hk] at h; exact .ended h (by rw [hk]; simp [stepCounts])
    | zero => rw [hk] at h; exact .sum b0 b1 rfl h

end Sys2Proof.Machine
end

