-- ==== Sys2Proof/Laws/Invariant.lean ====
section
/-! SUPPORT. Small lemmas about the invariant of Safety.lean: what it does not depend on, how many words an operation
has gathered, which operations read, and that a finished operation has its value. -/

namespace Sys2Proof.Machine

/-- The position invariant does not depend on the fields outside the block's step. -/
theorem phaseInv_congr {s t : State} {op : Op} (h : phaseInv s op) (phase : t.phase = s.phase)
    (stepNo : t.stepNo = s.stepNo) (words : t.words = s.words) (params : t.params = s.params) (live : t.live = s.live)
    (buf : t.buf = s.buf) (acc : t.acc = s.acc) : phaseInv t op := by
  have passed : ∀ i, Passed s i → Passed t i := by intro i hp j hj; rw [buf]; exact hp j hj
  have inRead : ∀ n, InRead s op n → InRead t op n := fun n h =>
    ⟨by rw [stepNo]; exact h.count, h.range, by rw [words, stepNo]; exact h.words⟩
  have response : ∀ n, HasResponse s n → HasResponse t n := fun n h =>
    ⟨live.trans h.live, by rw [buf]; exact h.bytes⟩
  unfold phaseInv at h ⊢
  rw [phase, params, stepNo, words, buf, acc]
  cases hp : s.phase <;> simp only [hp] at h ⊢
  · exact h
  · exact ⟨inRead _ h.1, h.2⟩
  · exact ⟨inRead _ h.1, h.2⟩
  · exact ⟨inRead _ h.1, response _ h.2.1, h.2.2.1, passed _ h.2.2.2⟩
  · exact ⟨inRead _ h.1, response _ h.2.1, h.2.2.1, passed _ h.2.2.2.1, h.2.2.2.2⟩
  · exact h
  · exact h

/-- Dropping the caller's first move keeps the invariant. -/
theorem BlockInv.tail {s : State} {m : CallerMove} {rest : List CallerMove} (h : BlockInv s)
    (hc : s.caller = m :: rest) : BlockInv { s with caller := rest } where
  params := h.params
  buf := h.buf
  gathered := h.gathered
  caller := fun x hx => h.caller x (by rw [hc]; exact List.mem_cons_of_mem _ hx)
  written := h.written
  idle := h.idle
  running := fun hb =>
    let ⟨op, ho, hw, hp⟩ := h.running hb
    ⟨op, ho, hw, phaseInv_congr hp rfl rfl rfl rfl rfl rfl rfl⟩

theorem wordsBefore_succ {op : Op} {k n : Nat} (h : (stepCounts op)[k]? = some n) :
    wordsBefore op (k + 1) = wordsBefore op k + n := by
  unfold wordsBefore; rw [List.take_add_one, h]; simp

/-- Through a step that reads, an operation has gathered at most three words (R33, R92). -/
theorem wordsBefore_succ_le {op : Op} {k n : Nat} (h : (stepCounts op)[k]? = some n) (hn : n = 1 ∨ n = 2) :
    wordsBefore op (k + 1) ≤ 3 := by
  have hsum : (stepCounts op).sum ≤ 3 := by
    cases op with
    | exec c m =>
      have hm := List.mem_of_getElem? h
      simp only [stepCounts, List.mem_singleton] at hm
      simp only [stepCounts, List.sum_cons, List.sum_nil]
      omega
    | heater l => cases l <;> simp [stepCounts]
    | autoRead t => cases t <;> simp [stepCounts, readCount]
    | readStatus c => cases c <;> simp [stepCounts]
    | _ => simp [stepCounts]
  exact Nat.le_trans (List.Sublist.sum_le_sum (List.take_sublist _ _) (fun _ _ => Nat.zero_le _)) hsum

/-- A step with a nonzero word count belongs to an operation that reads. -/
theorem reads_of_count {op : Op} {k n : Nat} (h : (stepCounts op)[k]? = some n) (hn : n = 1 ∨ n = 2) :
    Op.reads op = true := by
  have hm := List.mem_of_getElem? h
  cases op with
  | exec c m =>
    simp only [stepCounts, List.mem_singleton] at hm
    subst hm
    simpa [Op.reads] using hn
  | heater l => cases l <;> simp [stepCounts] at hm <;> omega
  | autoStart | autoStop | softReset | checksum => simp [stepCounts] at hm; omega
  | _ => rfl

/-- An operation that has gathered all its words has a value, of the type R91 gives it. -/
theorem successValue_of_words {op : Op} {ws : List Word} (hl : ws.length = wordsBefore op (stepCounts op).length)
    (hc : ∀ b0 b1, op ≠ .checksum b0 b1) : ∃ v, successValue op ws = some v ∧ valueFits op v = true := by
  have hl : ws.length = (stepCounts op).sum := by simpa [wordsBefore] using hl
  cases op with
  | oneShot m =>
    simp only [stepCounts, List.sum_cons, List.sum_nil] at hl
    obtain ⟨a, b, rfl⟩ := List.length_eq_two.mp hl
    exact ⟨_, rfl, rfl⟩
  | autoRead t =>
    cases t with
    | lastTempAndRH =>
      simp only [stepCounts, readCount, List.sum_cons, List.sum_nil] at hl
      obtain ⟨a, b, rfl⟩ := List.length_eq_two.mp hl
      exact ⟨_, rfl, rfl⟩
    | _ =>
      simp only [stepCounts, readCount, List.sum_cons, List.sum_nil] at hl
      obtain ⟨a, rfl⟩ := List.length_eq_one_iff.mp hl
      exact ⟨_, rfl, rfl⟩
  | readStatus c =>
    cases c <;>
      (simp only [stepCounts, List.sum_cons, List.sum_nil] at hl
       obtain ⟨a, rfl⟩ := List.length_eq_one_iff.mp hl
       exact ⟨_, rfl, rfl⟩)
  | readSerial =>
    simp only [stepCounts, List.sum_cons, List.sum_nil] at hl
    obtain ⟨a, b, c, rfl⟩ := List.length_eq_three.mp hl
    exact ⟨_, rfl, rfl⟩
  | readMfrId =>
    simp only [stepCounts, List.sum_cons, List.sum_nil] at hl
    obtain ⟨a, rfl⟩ := List.length_eq_one_iff.mp hl
    exact ⟨_, rfl, rfl⟩
  | exec c n =>
    simp only [stepCounts, List.sum_cons, List.sum_nil, Nat.add_zero] at hl
    exact ⟨.words ws, rfl, decide_eq_true hl⟩
  | checksum b0 b1 => exact absurd rfl (hc b0 b1)
  | autoStart | autoStop | heater | softReset => exact ⟨.unit, rfl, rfl⟩

end Sys2Proof.Machine
end

