-- ==== Sys2Proof/Tests/Slice0.lean ====
section
/-! SUPPORT. The model's own tests: checks of WellFormed, words written out from the encodings of the spec, single steps
whose results are those of 95_test_vectors.md, and for each statement with hypotheses a state that meets them. -/

namespace Sys2Proof.Tests

open Sys2Proof.Machine
set_option maxRecDepth 100000
set_option Elab.async false

/-! ### WellFormed: what each check refuses -/

theorem test_wf_reference : Params.reference.wf = true := by decide
theorem test_wf_refuses_retry_bound_zero : ({ Params.reference with retry := .bounded 0 } : Params).wf = false := by decide
theorem test_wf_refuses_no_periodic_rate :
    ({ Params.reference with starts := Params.reference.starts.take 1 } : Params).wf = false := by decide
theorem test_wf_refuses_no_heater_level : ({ Params.reference with heaterSetting := [] } : Params).wf = false := by decide
theorem test_wf_refuses_another_one_shot_code :
    ({ Params.reference with starts := Params.reference.starts.drop 1 } : Params).wf = false := by decide
theorem test_wf_refuses_two_equal_codes :
    ({ Params.reference with cmdCode := Params.reference.cmdCode.set 0 0xE000 } : Params).wf = false := by decide
theorem test_wf_refuses_a_command_code_equal_to_a_start_code :
    ({ Params.reference with cmdCode := Params.reference.cmdCode.set 0 0x2400 } : Params).wf = false := by decide
theorem test_wf_rate_bound : Instr.wf Params.reference (.reqAutoStart 5 .lpm3) = true ∧
    Instr.wf Params.reference (.reqAutoStart 6 .lpm3) = false := by decide
theorem test_wf_level_bound : Instr.wf Params.reference (.reqHeater 3) = true ∧
    Instr.wf Params.reference (.reqHeater 4) = false := by decide
theorem test_wf_start_row_without_its_rate :
    Instr.wf { Params.reference with starts := Params.reference.starts.take 5 } .auto10HzLpm0 = false := by decide

/-! ### Decoding: a word of each row, first byte in bits 15..8 (R80, R52), from 95_test_vectors.md L2.4 and R90 -/

/-- Every listed word decodes to the row beside it. -/
def decodes (nbits : Nat) (rows : List (Nat × Instr)) : Bool :=
  rows.all (fun x => decide (decodeTableWord nbits x.1 = some x.2))

theorem test_decode_trigger_rows : decodes 16
    [(0b0010010000000000, .trigOsLpm0), (0b0010010000001011, .trigOsLpm1), (0b0010010000010110, .trigOsLpm2),
     (0b0010010011111111, .trigOsLpm3)] = true := by decide
theorem test_decode_auto_0p5_and_1 : decodes 16
    [(0b0010000000110010, .auto0p5HzLpm0), (0b0010000000100100, .auto0p5HzLpm1), (0x202F, .auto0p5HzLpm2),
     (0x20FF, .auto0p5HzLpm3), (0x2130, .auto1HzLpm0), (0x2126, .auto1HzLpm1), (0x212D, .auto1HzLpm2),
     (0x21FF, .auto1HzLpm3)] = true := by decide
theorem test_decode_auto_2_4_10 : decodes 16
    [(0x2236, .auto2HzLpm0), (0x2220, .auto2HzLpm1), (0x222B, .auto2HzLpm2), (0x22FF, .auto2HzLpm3),
     (0x2334, .auto4HzLpm0), (0x2322, .auto4HzLpm1), (0x2329, .auto4HzLpm2), (0x23FF, .auto4HzLpm3),
     (0x2737, .auto10HzLpm0), (0x2721, .auto10HzLpm1), (0x272A, .auto10HzLpm2), (0x27FF, .auto10HzLpm3)] = true := by
  decide
theorem test_decode_fixed_rows : decodes 16
    [(0b0011000010010011, .autoExit), (0b1110000000000000, .readTrh), (0xE002, .readTmin), (0xE003, .readTmax),
     (0xE004, .readRhmin), (0xE005, .readRhmax), (0x3066, .heaterDis), (0x306D, .heaterEn), (0xF32D, .statusRead),
     (0x3041, .statusClear), (0x3683, .serial0), (0x3684, .serial1), (0x3685, .serial2), (0x3781, .mfrId),
     (0x30A2, .softReset)] = true := by decide
/-- Format CFG: the second word, in bits 31..16 of the numbering, is the setting. -/
theorem test_decode_config_row : decodes 32
    [(0x009F306E, .heaterCfg 0x009F), (0x3FFF306E, .heaterCfg 0x3FFF)] = true := by decide
/-- Format REQ: the op index in bits 3..0; the operands' places are the model's (log 9). -/
theorem test_decode_request_rows : decodes 8
    [(0b00100000, .reqOneShot .lpm2), (0b00010001, .reqAutoStart 0 .lpm1), (0b0010, .reqAutoStop),
     (0b01000011, .reqAutoRead .maxRH), (0b0100, .reqHeater 0), (0b00100101, .reqReadStatus true),
     (0b0110, .reqReadSerial), (0b0111, .reqReadMfrId), (0b1000, .reqSoftReset)] = true := by decide
theorem test_decode_request_operands : decodes 48
    [(0x010101010131, .reqAutoStart 5 .lpm3), (0x0001010104, .reqHeater 3), (0x000101002409, .reqExec 0x2400 2),
     (0xEFBE0A, .reqChecksum 0xBE 0xEF)] = true := by decide
/-- An instantiation with six periodic rates: rate 6 has no row of the opcode table (R147). -/
def sixRates : Params := { Params.reference with starts := Params.reference.starts ++ [⟨0x2800, #v[0x38, 0x22, 0x2B, 0xFF]⟩] }
theorem test_decode_start_without_a_row : decode sixRates .bus [0x28, 0x2B, 0x55] = .ok (.start 6 .lpm2, [0x55]) ∧
    decode sixRates .bus [0x27, 0xFF] = .ok (.row .auto10HzLpm3, []) ∧
    decode sixRates .bus [0x28, 0x2C] = .error (.noRow 0x282C) := by decide
theorem test_decode_refuses_by_name :
    decode Params.reference .bus [0xFF, 0xFF] = .error (.noRow 0xFFFF) ∧
    decode Params.reference .bus [0x24] = .error .truncated ∧
    decode { Params.reference with heaterCfgCrc := true } .bus [0x30, 0x6E, 0x00, 0x9F, 0x97] = .error .badConfigCheck ∧
    decode Params.reference .request [0x0B] = .error (.reservedOp 11) ∧
    decode Params.reference .request [0x53] = .error (.reservedTarget 5) ∧
    decode Params.reference .request [0x04, 0x02] = .error .badNatural := by decide

/-! ### The checksum, from L2.1 and L2.2 -/

theorem test_checksum_vectors : checksum 0x61 0xA8 = 0x65 ∧ checksum 0x5C 0x2F = 0x7A ∧ checksum 0xBE 0xEF = 0x92 ∧
    checksum 0x80 0x00 = 0xA2 ∧ checksum 0x00 0x80 = 0xFB ∧ checksum 0x80 0x10 = 0xE1 := by decide
theorem test_table_vectors : crcTable 0x01 = 0x31 ∧ crcTable 0x80 = 0x7A ∧ crcTable 0x9E = 0x26 ∧ crcTable 0xA3 = 0xAF :=
  by decide

/-! ### Small states -/

/-- A busy block at a step of an operation, with the transport's next answers. -/
def running (op : Op) (k : Nat) (answers : List Draw) : State :=
  { State.reset with op := some op, stepNo := k, busy := true, answers := answers }

/-- An idle block with a request waiting. -/
def asked (op : Op) (answers : List Draw) : State := { State.reset with caller := [.request op], answers := answers }

/-- A busy block inside a step. -/
def inside (op : Op) (ph : Phase) (answers : List Draw) : State := { running op 0 answers with phase := ph }

/-- A busy block that has just received a response. -/
def received (op : Op) (n : Nat) (bytes : List Byte) : State :=
  { inside op (.checkHi n 0) [] with buf := Memory.writeBytes [] 0 bytes, live := 3 * n }

/-- The answer that carries six bytes. -/
def six (b0 b1 b2 b3 b4 b5 : Byte) : Draw := .ok #v[b0, b1, b2, b3, b4, b5]

/-- The response of L1.1. -/
def sample : Draw := six 0x61 0xA8 0x65 0x5C 0x2F 0x7A

/-- A failure's cause. -/
def cause : TransportCause := ⟨7⟩

/-- What a field of the next state is. -/
def nextField {α : Type} (f : State → α) : Out → Option α
  | .next t => some (f t)
  | .fault _ | .refused _ => none

theorem waiting_nil : Waiting [] := fun _ h => nomatch h
theorem waiting_request (op : Op) : Waiting [.request op] := fun _ h => ⟨op, List.mem_singleton.mp h⟩

/-! ### One step each, from L1 and L2.4 -/

theorem test_one_shot_reads_six_bytes :
    nextField State.trace (exec .trigOsLpm0 (running (.oneShot .lpm0) 0 [sample])) =
      some [.writeRead 0x44 [0x24, 0x00] 6 (.ok [0x61, 0xA8, 0x65, 0x5C, 0x2F, 0x7A])] := by decide
theorem test_auto_start_of_one_shot_only_writes :
    nextField State.trace (exec .trigOsLpm3 (running (.autoStart 0 .lpm3) 0 [sample])) =
      some [.write 0x44 [0x24, 0xFF] (.ok [])] := by decide
theorem test_auto_start_10hz :
    nextField State.trace (exec .auto10HzLpm2 (running (.autoStart 5 .lpm2) 0 [sample])) =
      some [.write 0x44 [0x27, 0x2A] (.ok [])] := by decide
theorem test_read_tmin_reads_three_bytes :
    nextField State.trace (exec .readTmin (running (.autoRead .minTemp) 0 [six 0x12 0x34 0x37 0 0 0])) =
      some [.writeRead 0x44 [0xE0, 0x02] 3 (.ok [0x12, 0x34, 0x37])] := by decide
theorem test_heater_config_is_four_bytes :
    nextField State.trace (step (running (.heater 1) 1 [sample])) =
      some [.write 0x44 [0x30, 0x6E, 0x00, 0x9F] (.ok [])] := by decide
theorem test_heater_config_variant_is_five_bytes :
    encHeaterCfg { Params.reference with heaterCfgCrc := true } 0x009F = [0x30, 0x6E, 0x00, 0x9F, 0x96] := by
  decide
theorem test_heater_off_ends_after_one_write :
    nextField State.result (step (running (.heater 0) 1 [])) = some (some (.ok .unit)) := by decide
theorem test_second_word_fails_the_check :
    nextField State.phase (step { received (.exec 0xE000 2) 2 [0x61, 0xA8, 0x65, 0x5C, 0x2F, 0x7B] with
      phase := .checkLo 2 1, acc := some 0xAF }) = some (.respond (.err .checksumMismatch)) := by decide
theorem test_a_checked_word_is_big_endian :
    nextField State.words (step { received (.autoRead .minTemp) 1 [0x12, 0x34, 0x37] with
      phase := .checkLo 1 0, acc := some (crcTable (0xFF ^^^ 0x12)) }) = some [0x1234] := by decide
theorem test_three_words_are_invalid :
    nextField State.phase (step (running (.exec 0xE000 3) 0 [sample])) = some (.respond (.err .invalidInput)) := by
  decide
theorem test_busy_block_refuses_a_request :
    nextField State.faults (step { running .autoStop 0 [] with caller := [.barge .softReset] }) = some ⟨false, true⟩ ∧
    nextField State.op (step { running .autoStop 0 [] with caller := [.barge .softReset] }) = some (some .autoStop) := by
  decide
theorem test_second_serial_word : nextField State.trace (step (running .readSerial 1 [sample])) =
    some [.writeRead 0x44 [0x36, 0x84] 3 (.ok [0x61, 0xA8, 0x65])] := by decide

/-! ### Witnesses: states and operands that meet the hypotheses of each statement, one for each clause -/

theorem witness_BitStep : (0x80 : Byte).getLsbD 7 = true ∧ (0x7F : Byte).getLsbD 7 = false := by decide
theorem witness_EveryChecksumValue : checksum 0xFF 0x00 = 0x00 ∧ checksum 0x00 0xFF = 0x2D := by decide
theorem witness_ShortErrors : (0x01 : Byte) ≠ 0 ∧ (0xFF : Byte) ≠ 0 := by decide
theorem witness_DecodeOfEncode : Params.reference.wf = true ∧ Instr.wf Params.reference .auto10HzLpm3 = true ∧
    Instr.wf Params.reference (.reqAutoStart 5 .lpm3) = true ∧ Instr.wf Params.reference (.reqHeater 3) = true ∧
    Instr.wf Params.reference (.heaterCfg 0xFFFF) = true ∧ sixRates.wf = true ∧
    Command.wf sixRates (.start 6 .lpm3) = true ∧ Command.wf sixRates (.row .auto10HzLpm3) = true := by decide
theorem witness_EncodeOfDecodedFrame :
    decode Params.reference .bus [0x24, 0x00, 0xAA] = .ok (.row .trigOsLpm0, [0xAA]) ∧
    decode sixRates .bus [0x28, 0x38] = .ok (.start 6 .lpm0, []) ∧
    decode { Params.reference with heaterCfgCrc := true } .bus [0x30, 0x6E, 0x03, 0xFF, 0x00] =
      .ok (.row (.heaterCfg 0x03FF), []) := by decide
theorem witness_DistinctSelections : Params.reference.wf = true ∧ Params.reference.start 0 .lpm0 = some 0x2400 ∧
    Params.reference.start 5 .lpm3 = some 0x27FF := by decide
theorem witness_FramesAreBigEndian : Params.reference.heaterCfgCrc = false ∧
    ({ Params.reference with heaterCfgCrc := true } : Params).heaterCfgCrc = true ∧
    ({ Params.reference with heaterCfgCrc := true } : Params).wf = true := by decide
/-- The transport answers: the hypothesis of the statements on completing commands. -/
theorem witness_Completes : (running (.autoStart 5 .lpm3) 0 [sample]).draw =
      some (sample, running (.autoStart 5 .lpm3) 0 []) ∧
    (running (.autoStart 5 .lpm3) 0 [sample]).params.start 5 .lpm3 = some 0x27FF ∧
    (Instr.auto10HzLpm3, 5, LowPowerMode.lpm3) ∈ Statements.autoStartRows ∧
    (Instr.autoExit, CommandId.autoExit) ∈ Statements.fixedWriteRows ∧
    (Instr.readTrh, CommandId.readTrh, 2) ∈ Statements.fixedReadRows := by decide
theorem witness_TriggerReads : (running (.oneShot .lpm3) 0 [sample]).draw = some (sample, running (.oneShot .lpm3) 0 []) ∧
    (running (.oneShot .lpm3) 0 [sample]).params.start 0 .lpm3 = some 0x24FF ∧
    (Instr.trigOsLpm3, LowPowerMode.lpm3) ∈ Statements.triggerRows ∧
    (∀ k m, (running (.oneShot .lpm3) 0 [sample]).op ≠ some (.autoStart k m)) :=
  ⟨rfl, rfl, by decide, fun _ _ h => nomatch h⟩
theorem witness_TriggerWrites : (running (.autoStart 0 .lpm0) 0 [sample]).draw =
      some (sample, running (.autoStart 0 .lpm0) 0 []) ∧
    (running (.autoStart 0 .lpm0) 0 [sample]).op = some (.autoStart 0 .lpm0) := by decide
/-- The transport fails: the hypothesis of the statements on failing writes and reads. -/
theorem witness_Fails : (running (.heater 1) 1 [.err cause]).draw = some (.err cause, running (.heater 1) 1 []) ∧
    (running (.autoStart 0 .lpm0) 0 [.err cause]).draw = some (.err cause, running (.autoStart 0 .lpm0) 0 []) ∧
    (running (.oneShot .lpm0) 0 [.err cause]).draw = some (.err cause, running (.oneShot .lpm0) 0 []) := by decide
theorem witness_Draw : (running .autoStop 0 [sample]).answers = sample :: [] ∧
    ({ running .autoStop 0 [] with thereafter := some cause } : State).thereafter = some cause ∧
    (running .autoStop 0 []).answers = [] ∧ (running .autoStop 0 []).thereafter = none := by decide
theorem witness_BlockWaits : (inside .readMfrId (.retryRead 1 0) []).draw = none ∧
    (inside .readMfrId (.retryRead 1 0) []).busy = true ∧ Waiting (inside .readMfrId (.retryRead 1 0) []).caller :=
  ⟨rfl, rfl, waiting_nil⟩
theorem witness_WriteCommandsFrame : Statements.WritesOnly .autoExit ∧ Statements.WritesOnly .auto10HzLpm3 ∧
    Statements.WritesOnly (.heaterCfg 0) ∧
    ∃ t, exec .autoExit (running .autoStop 0 [.err cause]) = .next t :=
  ⟨.inl ⟨.autoExit, by decide⟩, .inr (.inl ⟨5, .lpm3, by decide⟩), .inr (.inr ⟨0, rfl⟩), _, rfl⟩
theorem witness_ReadCommandsFrame : ∃ t, exec .readTrh (running (.autoRead .lastTempAndRH) 0 [sample]) = .next t :=
  ⟨_, rfl⟩
theorem witness_TriggerCommandsFrame : (∃ t, exec .trigOsLpm0 (running (.oneShot .lpm0) 0 [sample]) = .next t) ∧
    ∃ t, exec .trigOsLpm0 (running (.autoStart 0 .lpm0) 0 [sample]) = .next t := ⟨⟨_, rfl⟩, _, rfl⟩
theorem witness_OperandsOutside : ({ Params.reference with starts := [] } : Params).starts = [] ∧
    ({ Params.reference with starts := Params.reference.starts.take 5 } : Params).starts.length ≤ 5 ∧
    State.reset.params.starts.length ≤ 6 ∧ State.reset.params.heaterSetting.length < 4 := by decide
theorem witness_IdleAccepts : State.reset.busy = false ∧ 5 < State.reset.params.starts.length ∧
    3 ≤ State.reset.params.heaterSetting.length := by decide
theorem witness_Reentrant : (Instr.reqHeater 3).opOf = some (.heater 3) ∧
    Op.wf (running .autoStop 0 []).params (.heater 3) = true ∧ (running .autoStop 0 []).busy = true := by decide
theorem witness_RequestsFrame : ∃ t, exec .reqAutoStop State.reset = .next t := ⟨_, rfl⟩
theorem witness_StepRuns : decodeTableWord 16 0x2400 = some .trigOsLpm0 ∧ Instr.trigOsLpm0.opOf = none ∧
    decodeTableWord 8 0x2 = some .reqAutoStop ∧ Instr.reqAutoStop.opOf = some .autoStop := by decide
theorem witness_StepTakes : (asked .autoStop []).caller = [.request .autoStop] ∧ (asked .autoStop []).busy = false ∧
    ({ running .autoStop 0 [] with caller := [.barge .softReset] } : State).caller = [.barge .softReset] := by decide
theorem witness_StepTakes_waiting : (running .autoStop 0 []).busy = true ∧ Waiting (running .autoStop 0 []).caller ∧
    ∃ t, step (running .autoStop 0 []) = .next t := ⟨rfl, waiting_nil, _, rfl⟩
theorem witness_IdleWaits : State.reset.busy = false ∧ State.reset.caller = [] := by decide
/-- A block at the beginning of a step, for the statements on sequences; the heater's two later steps and the second step
of a status read among them. -/
theorem witness_AtAStep (op : Op) (k : Nat) (ds : List Draw) : (running op k ds).busy = true ∧
    (running op k ds).phase = .ready ∧ Waiting (running op k ds).caller ∧ (running op k ds).op = some op ∧
    (running op k ds).stepNo = k := ⟨rfl, rfl, waiting_nil, rfl, rfl⟩
theorem witness_Setting : (running (.heater 1) 1 []).params.heaterSetting[0]? = some 0x009F ∧
    (running (.heater 3) 1 []).params.heaterSetting[2]? = some 0x3FFF := by decide
theorem witness_Direct : 2 < 3 ∧ (running (.exec 0xE000 0) 0 [sample]).draw = some (sample, running (.exec 0xE000 0) 0 []) ∧
    (running (.exec 0xE000 2) 0 [.err cause]).draw = some (.err cause, running (.exec 0xE000 2) 0 []) := by decide
theorem witness_RetryLoop : (inside .readMfrId (.retryRead 1 0) [.err cause]).draw =
      some (.err cause, inside .readMfrId (.retryRead 1 0) []) ∧
    (inside .readMfrId (.retryRead 1 0) [sample]).draw = some (sample, inside .readMfrId (.retryRead 1 0) []) ∧
    (inside .readMfrId (.retryDelay 1 0) []).phase = .retryDelay 1 0 ∧ State.reset.params.retry = .unbounded := by decide
/-- The same under a bound of one attempt, and of two. -/
def bounded (k : Nat) (ph : Phase) (answers : List Draw) : State :=
  { inside .readMfrId ph answers with params := { Params.reference with retry := .bounded k } }
theorem witness_RetryLoop_bounded : (bounded 1 (.retryRead 1 0) [.err cause]).params.retry = .bounded (0 + 1) ∧
    (bounded 2 (.retryRead 1 0) [.err cause]).params.retry = .bounded 2 ∧ 0 + 1 ≠ 2 := by decide
/-- A byte that is stale, at both ends of a word; a byte that was never written; ACC unwritten at both its reads. -/
theorem witness_UnwrittenRead : (inside .readMfrId (.checkHi 1 0) []).live ≤ 0 ∧
    ({ received (.oneShot .lpm0) 1 [1, 2, 3] with phase := .checkLo 2 1 } : State).live ≤ 3 * 1 + 2 ∧
    ({ received .readMfrId 1 [1, 2] with phase := .checkLo 1 0 } : State).buf.read 2 = none ∧
    ({ received .readMfrId 1 [1, 2, 3] with phase := .checkLo 1 0 } : State).acc = none ∧
    (inside (.checksum 1 2) (.sumLo 2) []).acc = none := by decide
theorem witness_Validation : (received (.oneShot .lpm0) 2 [0x61, 0xA8, 0x65, 0x5C, 0x2F, 0x7A]).phase = .checkHi 2 0 ∧
    (received (.oneShot .lpm0) 2 [0x61, 0xA8, 0x65, 0x5C, 0x2F, 0x7A]).live = 3 * 2 ∧
    (∀ a, a < 3 * 2 → (received (.oneShot .lpm0) 2 [0x61, 0xA8, 0x65, 0x5C, 0x2F, 0x7A]).buf.read a =
      [0x61, 0xA8, 0x65, 0x5C, 0x2F, 0x7A][a]?) ∧
    refValidate [0x61, 0xA8, 0x65, 0x5C, 0x2F, 0x7A] = .ok [0x61A8, 0x5C2F] ∧
    refValidate [0x61, 0xA8, 0x65, 0x5C, 0x2F, 0x7B] = .error .checksumMismatch := by decide
theorem witness_Emission : (inside .autoStop (.respond (.ok .unit)) []).phase = .respond (.ok .unit) ∧
    (inside .autoStop (.respond (.ok .unit)) []).busy = true := by decide
theorem witness_Finished : ({ running (.oneShot .lpm0) 1 [] with words := [0x61A8, 0x5C2F] } : State).words =
      [0x61A8, 0x5C2F] ∧
    ({ running .readSerial 3 [] with words := [1, 2, 3] } : State).words = [1, 2, 3] := by decide
theorem witness_ChecksumRequest : (asked (.checksum 0xBE 0xEF) []).busy = false ∧
    (asked (.checksum 0xBE 0xEF) []).caller = [.request (.checksum 0xBE 0xEF)] ∧ Waiting [] :=
  ⟨rfl, rfl, waiting_nil⟩
theorem witness_HeaterFailure : (running (.heater 3) 2 [.err cause]).draw =
      some (.err cause, running (.heater 3) 2 []) ∧
    (running (.heater 3) 2 [.err cause]).params.heaterSetting[2]? = some 0x3FFF ∧
    (running (.heater 1) 1 [.err cause]).draw = some (.err cause, running (.heater 1) 1 []) := by decide
/-- From acceptance: the configuration fails with an answer listed after it; the enable fails for ever. -/
theorem witness_HeaterFailure_accepted :
    (asked (.heater 3) [sample, .err cause, sample]).answers = sample :: [.err cause, sample] ∧
    Statements.FailsNext (asked (.heater 3) [sample, .err cause, sample]) [.err cause, sample] cause [sample] ∧
    (asked (.heater 3) [sample, sample]).answers = sample :: sample :: [] ∧
    Statements.FailsNext { asked (.heater 3) [sample, sample] with thereafter := some cause } [] cause [] :=
  ⟨rfl, .inl rfl, rfl, .inr ⟨rfl, rfl, rfl⟩⟩
theorem witness_Heater : (asked (.heater 3) [sample, sample, sample]).caller = [.request (.heater (2 + 1))] ∧
    (asked (.heater 3) [sample, sample, sample]).params.heaterSetting[2]? = some 0x3FFF ∧
    (asked (.heater 0) [sample]).caller = [.request (.heater 0)] ∧ (asked (.heater 0) [sample]).answers = [sample] := by
  decide
theorem witness_StatusClearFails : (running (.readStatus true) 1 [.err cause]).draw =
      some (.err cause, running (.readStatus true) 1 []) := by decide
theorem witness_SoftReset : (asked .softReset [sample]).caller = [.request .softReset] ∧
    (asked .softReset [sample]).draw = some (sample, asked .softReset []) ∧
    (asked .softReset [.err cause]).draw = some (.err cause, asked .softReset []) := by decide

/-- A sound state with a request waiting, one with a response to emit, one at the beginning of a step, one in the retry
loop, and one at the end of a check: the hypotheses of the statements over all sound states. -/
theorem sound_of {s : State} {op : Op} (h1 : s.params.wf = true) (h2 : s.buf.wf = true) (h3 : s.caller = [])
    (hg : s.words.length ≤ 3) (h4 : s.faults.readUnwritten = false) (h5 : s.busy = true) (h6 : s.op = some op) (h7 : op.wf s.params = true)
    (h8 : phaseInv s op) : BlockInv s :=
  ⟨h1, h2, hg, fun m hm => (by rw [h3] at hm; cases hm), h4, fun h => (by rw [h5] at h; cases h),
    fun _ => ⟨op, h6, h7, h8⟩⟩
theorem witness_Sound_idle : BlockInv (asked .readMfrId []) ∧ ∃ t, step (asked .readMfrId []) = .next t :=
  ⟨⟨by decide, rfl, by decide, by decide, rfl, fun _ => ⟨rfl, rfl, rfl⟩, fun h => nomatch h⟩, _, rfl⟩
theorem witness_Sound_responds : BlockInv (inside .autoStop (.respond (.ok .unit)) []) ∧
    (∃ t, step (inside .autoStop (.respond (.ok .unit)) []) = .next t ∧ t.busy = false ∧
      t.result ≠ (inside .autoStop (.respond (.ok .unit)) []).result) :=
  ⟨sound_of (op := .autoStop) (by decide) rfl rfl (by decide) rfl rfl rfl rfl rfl, _, rfl, rfl, fun h => nomatch h⟩
theorem witness_Sound_checks : BlockInv { received (.autoRead .minTemp) 1 [0x12, 0x34, 0x37] with
      phase := .checkLo 1 0, acc := some (fold crcInit 0x12) } ∧
    nextField State.words (step { received (.autoRead .minTemp) 1 [0x12, 0x34, 0x37] with
      phase := .checkLo 1 0, acc := some (fold crcInit 0x12) }) = some [0x1234] :=
  ⟨sound_of (op := .autoRead .minTemp) (by decide) rfl rfl (by decide) rfl rfl rfl rfl
    ⟨⟨rfl, .inl rfl, rfl⟩,
     ⟨rfl, fun a ha => match a, ha with | 0, _ => ⟨0x12, rfl⟩ | 1, _ => ⟨0x34, rfl⟩ | 2, _ => ⟨0x37, rfl⟩⟩,
     by decide, fun j h => absurd h (Nat.not_lt_zero j), 0x12, rfl, rfl⟩, by decide⟩
theorem witness_AnyState : ∃ t, State.reset.buf.wf = true ∧ step State.reset = .next t := ⟨_, rfl, rfl⟩
theorem witness_RetryNeverResends : (inside .readMfrId (.retryDelay 1 0) []).busy = true ∧
    ∃ t, step (inside .readMfrId (.retryRead 1 0) [.err cause]) = .next t := ⟨rfl, _, rfl⟩
/-- Failures of differing causes, before the delay and before the bare read; none listed. -/
theorem witness_UnboundedRetry : State.reset.params.retry = .unbounded ∧
    (inside .readMfrId (.retryDelay 1 0) [.err ⟨1⟩, .err ⟨2⟩]).answers = [(⟨1⟩ : TransportCause), ⟨2⟩].map .err ∧
    (inside .readMfrId (.retryRead 1 0) [.err ⟨1⟩]).answers = [(⟨1⟩ : TransportCause)].map .err ∧
    ({ inside .readMfrId (.retryRead 1 3) [] with thereafter := some cause } : State).answers = [].map .err := by decide
theorem witness_BoundedRetry : (bounded 2 (.retryDelay 1 0) [.err ⟨1⟩, .err ⟨2⟩]).answers =
      [(⟨1⟩ : TransportCause)].map .err ++ .err ⟨2⟩ :: [] ∧ 0 + [(⟨1⟩ : TransportCause)].length + 1 = 2 := by decide
theorem witness_Refines : (asked (.oneShot .lpm0) [sample]).params.wf = true ∧
    refOp Params.reference (.oneShot .lpm0) [sample] =
      some (.ok (.datum (.tempAndRH 0x61A8 0x5C2F)),
        [.writeRead 0x44 [0x24, 0x00] 6 (.ok [0x61, 0xA8, 0x65, 0x5C, 0x2F, 0x7A])], []) := by decide
/-- AUTO_START at a rate without a row, accepted, failing and unanswered. -/
theorem witness_StartsWithoutARow :
    let s : List Draw → State := fun ds => { running (.autoStart 6 .lpm2) 0 ds with params := sixRates }
    (s [sample]).params.start 6 .lpm2 = some 0x282B ∧ Instr.ofStart 6 .lpm2 = none ∧
      (s [sample]).draw = some (sample, s []) ∧ (s [.err cause]).draw = some (.err cause, s []) ∧
      (s []).draw = none ∧ (s [sample]).busy = true ∧ (s [sample]).phase = .ready := by decide

end Sys2Proof.Tests
end

/-! The one-bit CRC step and the table (41_checksum.md R110 to R112). -/

namespace Sys2Proof.Machine

/-- R110 when the bit shifted out is 1: the polynomial 0x31 is subtracted. -/
theorem bstep_of_msb {a : Byte} (h : a.getLsbD 7 = true) : bstep a = (a <<< 1) ^^^ 0x31 := if_pos h

/-- R110 when the bit shifted out is 0: a shift and nothing else. -/
theorem bstep_of_not_msb {a : Byte} (h : a.getLsbD 7 = false) : bstep a = a <<< 1 :=
  if_neg (Bool.eq_false_iff.mp h)

/-- Settles O3: the two cases of R110 by their lemmas, its corner cases and example by evaluation. -/
theorem bitStepShiftsAndSubtractsThePolynomial : Obligations.BitStepShiftsAndSubtractsThePolynomial :=
  ⟨fun _ => bstep_of_msb, fun _ => bstep_of_not_msb, by decide, by decide, by decide, by decide⟩

/-- The listing of R112 tabulates R111 in the order of the index. -/
theorem crcListing_eq_map_range :
    Statements.crcListing = (List.range 256).map fun n => crcTable (BitVec.ofNat 8 n) := by
  decide +kernel

/-- Settles O4: an entry of the tabulated list is the table's value at that index. -/
theorem tableIsTheOneListed : Obligations.TableIsTheOneListed := by
  unfold Obligations.TableIsTheOneListed
  rw [crcListing_eq_map_range]
  refine ⟨by rw [List.length_map, List.length_range], fun i => ?_⟩
  rw [List.getElem?_map, List.getElem?_range i.isLt, Option.map_some, BitVec.ofNat_toNat, BitVec.setWidth_eq]

end Sys2Proof.Machine

/-! Selections and codes (42_command_encoder.md R166): under R95 a code has one selection. -/

namespace Sys2Proof

open Sys2Proof.Machine

theorem CommandId.mem_all (id : CommandId) : id ∈ CommandId.all := by cases id <;> decide

theorem LowPowerMode.mem_all (m : LowPowerMode) : m ∈ LowPowerMode.all := by cases m <;> decide

/-- The last clause of R95's check. -/
theorem Params.nodup_codes_of_wf {p : Params} (h : p.wf = true) : p.codes.Nodup := by
  unfold Params.wf at h
  rw [Bool.and_eq_true, decide_eq_true_eq] at h
  exact h.2

/-- The codes are distinct exactly when the fixed ones are, those of each rate are, no two rates share one, and no fixed
code is a start code. -/
theorem Params.nodup_codes_iff (p : Params) :
    p.codes.Nodup ↔ (CommandId.all.map p.code).Nodup ∧
      ((∀ row ∈ p.starts, (LowPowerMode.all.map row.code).Nodup) ∧
        p.starts.Pairwise fun row row' => (LowPowerMode.all.map row.code).Disjoint (LowPowerMode.all.map row'.code)) ∧
      (CommandId.all.map p.code).Disjoint (p.starts.flatMap fun row => LowPowerMode.all.map row.code) := by
  rw [Params.codes, List.nodup_append', List.nodup_flatMap]

theorem Params.start_eq_some_iff {p : Params} {r : Nat} {m : LowPowerMode} {code : Word} :
    p.start r m = some code ↔ ∃ h : r < p.starts.length, p.starts[r].code m = code := by
  by_cases h : r < p.starts.length
  · simp [Params.start_of_lt m h, h]
  · simp [Params.start, h]

theorem StartRow.code_mem_map_all (row : StartRow) (m : LowPowerMode) :
    row.code m ∈ LowPowerMode.all.map row.code := List.mem_map_of_mem m.mem_all

/-- Two command ids with one code are the same id. -/
theorem Params.code_injective {p : Params} (h : p.codes.Nodup) {id id' : CommandId} (e : p.code id = p.code id') :
    id = id' :=
  List.inj_on_of_nodup_map (p.nodup_codes_iff.mp h).1 id.mem_all id'.mem_all e

/-- No fixed code is a start code. -/
theorem Params.code_ne_of_start {p : Params} (h : p.codes.Nodup) (id : CommandId) {r : Nat} {m : LowPowerMode}
    {code : Word} (hs : p.start r m = some code) : p.code id ≠ code := by
  obtain ⟨hr, rfl⟩ := Params.start_eq_some_iff.mp hs
  obtain ⟨-, -, apart⟩ := p.nodup_codes_iff.mp h
  intro e
  refine apart (List.mem_map_of_mem id.mem_all) ?_
  rw [e]
  exact List.mem_flatMap_of_mem (List.getElem_mem hr) (p.starts[r].code_mem_map_all m)

/-- The codes of two different rates differ, whatever the modes: the rate that stands first is named first. -/
theorem Params.startRow_code_ne_of_lt {p : Params} (h : p.codes.Nodup) {r r' : Nat} (hr : r < p.starts.length)
    (hr' : r' < p.starts.length) (lt : r < r') (m m' : LowPowerMode) :
    p.starts[r].code m ≠ p.starts[r'].code m' := by
  obtain ⟨-, ⟨-, rates⟩, -⟩ := p.nodup_codes_iff.mp h
  intro e
  refine List.pairwise_iff_getElem.mp rates r r' hr hr' lt (p.starts[r].code_mem_map_all m) ?_
  rw [e]
  exact p.starts[r'].code_mem_map_all m'

/-- Two start commands with one code have the same rate and the same mode. -/
theorem Params.start_injective {p : Params} (h : p.codes.Nodup) {r r' : Nat} {m m' : LowPowerMode} {code : Word}
    (hs : p.start r m = some code) (hs' : p.start r' m' = some code) : r = r' ∧ m = m' := by
  obtain ⟨hr, e⟩ := Params.start_eq_some_iff.mp hs
  obtain ⟨hr', e'⟩ := Params.start_eq_some_iff.mp hs'
  have same : p.starts[r].code m = p.starts[r'].code m' := e.trans e'.symm
  rcases lt_trichotomy r r' with lt | rfl | lt
  · exact absurd same (Params.startRow_code_ne_of_lt h hr hr' lt m m')
  · obtain ⟨-, ⟨modes, -⟩, -⟩ := p.nodup_codes_iff.mp h
    exact ⟨rfl, List.inj_on_of_nodup_map (modes _ (List.getElem_mem hr)) m.mem_all m'.mem_all same⟩
  · exact absurd same.symm (Params.startRow_code_ne_of_lt h hr' hr lt m' m)

end Sys2Proof

namespace Sys2Proof.Machine

/-- Two codes with one frame are the same code: a frame is the code's two bytes (R140). -/
theorem enc_injective {v w : Word} (h : enc v = enc w) : v = w := be16_injective h

/-- Settles O13: a frame determines its code, and under R95 a code determines its selection. -/
theorem distinctSelectionsGiveDistinctFrames : Obligations.DistinctSelectionsGiveDistinctFrames := by
  intro p hp
  have distinct : p.codes.Nodup := Params.nodup_codes_of_wf hp
  refine ⟨?ids, ?across, ?starts⟩
  case ids =>
    intro id id' e
    exact Params.code_injective distinct (enc_injective e)
  case across =>
    intro id r m code hs e
    exact Params.code_ne_of_start distinct id hs (enc_injective e)
  case starts =>
    intro r m r' m' code code' hs hs' e
    obtain rfl := enc_injective e
    exact Params.start_injective distinct hs hs'

end Sys2Proof.Machine

/-! The heater's configuration write (43_operations.md R185): one bus write past the transactor. -/

namespace Sys2Proof.Machine

/-- R157: the code's two bytes, the setting's two, and the check byte of the variant. -/
theorem length_encHeaterCfg (p : Params) (setting : Word) :
    (encHeaterCfg p setting).length = if p.heaterCfgCrc then 5 else 4 := by
  unfold encHeaterCfg
  split <;> rfl

/-- R185: HEATER_CFG is the bus write of its frame, with no word count, no read and no validation. -/
theorem exec_heaterCfg (setting : Word) (s : State) :
    exec (.heaterCfg setting) s = busWrite (encHeaterCfg s.params setting) s := rfl

/-- Settles O19: the write's two outcomes are those of a bus write, and the transport's answer leaves BUF, STEP and the
record as they were. -/
theorem heaterConfigurationCompletes : Obligations.HeaterConfigurationCompletes := by
  intro setting s
  refine ⟨length_encHeaterCfg s.params setting, ?accepted, ?failed⟩
  case accepted =>
    intro r s' h
    rw [exec_heaterCfg, busWrite_ok h]
    obtain ⟨as, rfl⟩ := State.draw_eq h
    rfl
  case failed =>
    intro c s' h
    rw [exec_heaterCfg, busWrite_err h]
    obtain ⟨as, rfl⟩ := State.draw_eq h
    rfl

end Sys2Proof.Machine

/-! Reset and the hazard of a request presented while BUSY (70_reset_and_hazards.md R251, R260, R229). -/

namespace Sys2Proof.Machine

/-- Settles O2: the record of events starts empty. -/
theorem resetPerformsNoBusAccess : Obligations.ResetPerformsNoBusAccess := rfl

/-- The block's own moves leave FAULT as it is, or add ReadUnwritten to it (R36). -/
theorem Move.faults_eq {s t : State} (m : Move s t) :
    t.faults = s.faults ∨ t.faults = { s.faults with readUnwritten := true } := by
  cases m with
  | unwritten acc => exact .inr rfl
  | stay | wrote | failed | received | retries | accumulated | summed | validated | raised | emitted => exact .inl rfl

/-- A request leaves FAULT as it is, or adds ReentrantRequest to it (R260). -/
theorem present_faults_eq {op : Op} {s t : State} (h : present op s = .next t) :
    t.faults = s.faults ∨ t.faults = { s.faults with reentrantRequest := true } := by
  rcases present_cases op s with e | ⟨-, -, e⟩ | ⟨-, -, e⟩ <;> rw [e] at h <;> cases h
  · exact .inl rfl
  · exact .inr rfl

/-- A step leaves FAULT as it is, or adds one of its two reasons (R229). -/
theorem step_faults_eq {s t : State} (h : step s = .next t) :
    t.faults = s.faults ∨ t.faults = { s.faults with readUnwritten := true } ∨
      t.faults = { s.faults with reentrantRequest := true } := by
  rcases step_cases s with ⟨op, rest, -, e⟩ | ⟨rest, -, e⟩ | e <;> rw [e] at h
  · exact (present_faults_eq h).imp_right .inr
  · exact (blockStep_move h).faults_eq.imp_right .inl
  · exact (blockStep_move h).faults_eq.imp_right .inl

theorem step_keeps_reentrantRequest {s t : State} (h : step s = .next t)
    (hs : s.faults.reentrantRequest = true) : t.faults.reentrantRequest = true := by
  rcases step_faults_eq h with e | e | e
  · rw [e, hs]
  · rw [e, hs]
  · rw [e]

/-- What every step keeps holds in every later state of a run. -/
theorem run_keeps {P : State → Prop} (keeps : ∀ {s t : State}, step s = .next t → P s → P t) {k : Nat}
    {s t : State} (h : run k s = .next t) (hs : P s) : P t := by
  induction k generalizing s with
  | zero => cases h; exact hs
  | succ k ih =>
    cases e : step s with
    | next u => rw [run_succ e] at h; exact ih h (keeps e hs)
    | fault r => simp only [run, e, reduceCtorEq] at h
    | refused r => simp only [run, e, reduceCtorEq] at h

/-- A state with ReentrantRequest in FAULT is never a good final state (R229). -/
theorem goodFinal_of_reentrantRequest {s : State} (h : s.faults.reentrantRequest = true) : goodFinal s = false := by
  simp only [goodFinal, FaultSet.isEmpty, h, Bool.not_true, Bool.and_false]

/-- Settles O29: the request's row presents it, a busy block adds ReentrantRequest and nothing else, and every step of
the run after it keeps the reason. -/
theorem requestWhileBusyIsRefused : Obligations.RequestWhileBusyIsRefused := by
  intro i op s hi hw hb
  refine ⟨s.addReentrant, ?refused, rfl, ?later⟩
  case refused => rw [exec_request hi, present_busy hw hb]
  case later =>
    intro k u h
    have kept : u.faults.reentrantRequest = true :=
      run_keeps (P := fun v => v.faults.reentrantRequest = true) step_keeps_reentrantRequest h rfl
    exact ⟨kept, goodFinal_of_reentrantRequest kept⟩

end Sys2Proof.Machine

/-! Rules of every step, from any state at all (10_state.md section 4, 20_memory.md section 5, 60_exceptions.md
section 5). -/

namespace Sys2Proof.Machine

/-- What a step does, from any state: a request presented or a move of the block's own, from the state with the caller's
move made. -/
theorem step_moves {s t : State} (h : step s = .next t) :
    ∃ rest, (∃ op, present op { s with caller := rest } = .next t) ∨ Move { s with caller := rest } t := by
  rcases step_cases s with ⟨op, rest, -, e⟩ | ⟨rest, -, e⟩ | e <;> rw [e] at h
  · exact ⟨rest, .inl ⟨op, h⟩⟩
  · exact ⟨rest, .inr (blockStep_move h)⟩
  · exact ⟨s.caller, .inr (blockStep_move h)⟩

/-- A request that is answered changes the sequencing registers alone, or FAULT alone. -/
theorem present_next {op : Op} {s t : State} (h : present op s = .next t) :
    s.busy = false ∧ t = s.accept op ∨ s.busy = true ∧ t = s.addReentrant := by
  rcases present_cases op s with e | ⟨-, hb, e⟩ | ⟨-, hb, e⟩ <;> rw [e] at h <;> cases h
  · exact .inl ⟨hb, rfl⟩
  · exact .inr ⟨hb, rfl⟩

theorem Move.buf_wf {s t : State} (m : Move s t) (h : s.buf.wf = true) : t.buf.wf = true := by
  cases m with
  | received as e n bytes fits => exact Memory.wf_writeBytes bytes s.buf 0 (by omega) h
  | stay | unwritten | wrote | failed | retries | accumulated | summed | validated | raised | emitted => exact h

theorem Move.params_eq {s t : State} (m : Move s t) : t.params = s.params := by cases m <;> rfl

/-- A move of the block's own leaves the record, or adds one event at its end (R23, R62). -/
theorem Move.trace_grows {s t : State} (m : Move s t) : t.trace = s.trace ∨ ∃ e, t.trace = s.trace ++ [e] := by
  cases m with
  | wrote as e | failed as e | received as e | retries as e => exact .inr ⟨e, rfl⟩
  | stay | unwritten | accumulated | summed | validated | raised | emitted => exact .inl rfl

/-- A move that changes RESULT is an emission (R186). -/
theorem Move.emits {s t : State} (m : Move s t) (h : t.result ≠ s.result) : s.busy = true ∧ ∃ r, t = s.emit r := by
  cases m with
  | emitted r running => exact ⟨running, r, rfl⟩
  | stay | unwritten | wrote | failed | received | retries | accumulated | summed | validated | raised =>
    exact absurd rfl h

/-- Settles O49: only a read's bytes enter BUF, and they are written within it. -/
theorem everyStepKeepsBufCanonical : Obligations.EveryStepKeepsBufCanonical := by
  intro s t hs h
  obtain ⟨rest, ⟨op, e⟩ | m⟩ := step_moves h
  · rcases present_next e with ⟨-, rfl⟩ | ⟨-, rfl⟩ <;> exact hs
  · exact m.buf_wf hs

/-- Settles O50: neither a request nor a move of the block's own writes the parameters. -/
theorem noStepWritesTheConstants : Obligations.NoStepWritesTheConstants := by
  intro s t h
  obtain ⟨rest, ⟨op, e⟩ | m⟩ := step_moves h
  · rcases present_next e with ⟨-, rfl⟩ | ⟨-, rfl⟩ <;> rfl
  · exact m.params_eq

theorem step_keeps_readUnwritten {s t : State} (h : step s = .next t) (hs : s.faults.readUnwritten = true) :
    t.faults.readUnwritten = true := by
  rcases step_faults_eq h with e | e | e
  · rw [e, hs]
  · rw [e]
  · rw [e, hs]

/-- Settles O51: each reason stays by its own lemma; a request records nothing and a move at most one event. -/
theorem faultsAndTraceOnlyGrow : Obligations.FaultsAndTraceOnlyGrow := by
  intro s t h
  refine ⟨step_keeps_readUnwritten h, step_keeps_reentrantRequest h, ?_⟩
  obtain ⟨rest, ⟨op, e⟩ | m⟩ := step_moves h
  · rcases present_next e with ⟨-, rfl⟩ | ⟨-, rfl⟩ <;> exact .inl rfl
  · exact m.trace_grows

/-- Settles O52: a request leaves RESULT, and the one move that writes it is the emission of a running operation. -/
theorem resultIsWrittenOnlyByEmission : Obligations.ResultIsWrittenOnlyByEmission := by
  intro s t h changed
  obtain ⟨rest, ⟨op, e⟩ | m⟩ := step_moves h
  · rcases present_next e with ⟨-, rfl⟩ | ⟨-, rfl⟩ <;> exact absurd rfl changed
  · obtain ⟨running, r, rfl⟩ := m.emits changed
    exact ⟨running, rfl, rfl, rfl, rfl, rfl⟩

/-! ### The retry loop from any busy state -/

/-- What a bare read adds to the record: nothing while the transport is silent, or that read (R182). -/
theorem retryRead_trace {n a : Nat} {s t : State} (h : retryRead n a s = .next t) :
    t.trace = s.trace ∨ ∃ reply, t.trace = s.trace ++ [.read s.params.devAddr (3 * n) reply] := by
  rcases retryRead_cases n a s with e | ⟨as, r, e⟩ | ⟨as, c, e⟩ <;> rw [e] at h
  · cases h; exact .inl rfl
  · rcases deliver_cases n _ _ with e | ⟨-, e⟩ <;> rw [e] at h <;> cases h
    exact .inr ⟨_, rfl⟩
  · rcases retryFailed_cases n a c _ with ⟨e, -⟩ | ⟨e, -⟩ <;> rw [e] at h <;> cases h <;> exact .inr ⟨_, rfl⟩

/-- What the block's own step adds to the record in the retry loop: at most the delay or the bare read. -/
theorem blockStep_retry_trace {s t : State} {n a : Nat} (hb : s.busy = true)
    (hp : s.phase = .retryDelay n a ∨ s.phase = .retryRead n a) (h : blockStep s = .next t) :
    t.trace = s.trace ∨ t.trace = s.trace ++ [.delay 1] ∨
      ∃ reply, t.trace = s.trace ++ [.read s.params.devAddr (3 * n) reply] := by
  rcases hp with hp | hp
  · rw [blockStep_retryDelay hb hp] at h; cases h; exact .inr (.inl rfl)
  · rw [blockStep_retryRead hb hp] at h; exact (retryRead_trace h).imp_right .inr

/-- Settles O55: a request presented there records nothing, and the loop's two positions a delay or a bare read. -/
theorem retryLoopNeverResendsTheCommand : Obligations.RetryLoopNeverResendsTheCommand := by
  intro s t n a hb hp h
  rcases step_cases s with ⟨op, rest, -, e⟩ | ⟨rest, -, e⟩ | e <;> rw [e] at h
  · rcases present_next h with ⟨-, rfl⟩ | ⟨-, rfl⟩ <;> exact .inl rfl
  · exact blockStep_retry_trace (s := { s with caller := rest }) hb hp h
  · exact blockStep_retry_trace hb hp h

/-! ### Reset -/

/-- Settles O1: each register by its reset value; an empty BUF reads as unwritten everywhere. -/
theorem resetRegistersAsTheSpecGives : Obligations.ResetRegistersAsTheSpecGives :=
  ⟨rfl, Memory.read_nil, rfl, rfl, rfl, rfl, rfl, rfl, rfl, by decide⟩

/-- Settles O46: the reference instantiation is legal, BUF is empty, and the idle block is at rest. -/
theorem resetMeetsTheInvariant : Obligations.ResetMeetsTheInvariant where
  params := Params.reference_wf
  buf := Memory.wf_reset
  gathered := Nat.zero_le 3
  caller := List.forall_mem_nil _
  written := rfl
  idle := fun _ => ⟨rfl, rfl, rfl⟩
  running := fun hb => nomatch hb

end Sys2Proof.Machine

/-! Soundness (10_state.md section 3): what the block's own step does from a sound busy state. -/

namespace Sys2Proof.Machine

/-! ### The response in BUF -/

theorem InRead.reads {s : State} {op : Op} {n : Nat} (h : InRead s op n) : Op.reads op = true :=
  reads_of_count h.count h.range

/-- The bytes of word i of a response that is in BUF (R53). -/
theorem HasResponse.word {s : State} {n i : Nat} (h : HasResponse s n) (hi : i < n) :
    ∃ hb lb cb, s.buf.read (3 * i) = some hb ∧ s.buf.read (3 * i + 1) = some lb ∧ s.buf.read (3 * i + 2) = some cb := by
  obtain ⟨hb, h0⟩ := h.bytes (3 * i) (by omega)
  obtain ⟨lb, h1⟩ := h.bytes (3 * i + 1) (by omega)
  obtain ⟨cb, h2⟩ := h.bytes (3 * i + 2) (by omega)
  exact ⟨hb, lb, cb, h0, h1, h2⟩

/-- One more word has passed its check (R118). -/
theorem Passed.succ {s : State} {i : Nat} (h : Passed s i) {hb lb : Byte} (h0 : s.buf.read (3 * i) = some hb)
    (h1 : s.buf.read (3 * i + 1) = some lb) (h2 : s.buf.read (3 * i + 2) = some (checksum hb lb)) :
    Passed s (i + 1) := by
  intro j hj
  rcases Nat.lt_succ_iff_lt_or_eq.mp hj with hj | rfl
  · exact h j hj
  · exact ⟨hb, lb, h0, h1, h2⟩

/-- The words assembled depend on BUF and its readable bytes alone. -/
theorem State.assembleWords_congr {s t : State} {n : Nat} (buf : t.buf = s.buf) (live : t.live = s.live) :
    t.assembleWords n = s.assembleWords n := by
  have byte (a : Nat) : t.bufByte a = s.bufByte a := by simp only [State.bufByte, buf, live]
  have word (i : Nat) : t.assembleWord i = s.assembleWord i := by simp only [State.assembleWord, byte]
  induction n with
  | zero => rfl
  | succ n ih => simp only [State.assembleWords, ih, word]

/-- The end of a validation with its words at hand (R120). -/
theorem appendValidated_value {n : Nat} {s : State} {out : List Word} (h : s.assembleWords n = .value out) :
    appendValidated n s = .next (s.appendWords out).stepDone := by
  unfold appendValidated; rw [h]

/-- The words of a response that has passed are read from BUF in order, high byte first (R119, R120). -/
theorem Passed.assembleWords {s : State} {n : Nat} (h : Passed s n) (hn : n ≤ 2) (hl : 3 * n ≤ s.live) :
    ∃ out, s.assembleWords n = .value out ∧ out.length = n ∧
      ∀ j, j < n → ∃ hb lb, s.buf.read (3 * j) = some hb ∧ s.buf.read (3 * j + 1) = some lb ∧
        s.buf.read (3 * j + 2) = some (checksum hb lb) ∧ out[j]? = some (wordOf hb lb) := by
  induction n with
  | zero => exact ⟨[], rfl, rfl, fun j hj => absurd hj (Nat.not_lt_zero j)⟩
  | succ n ih =>
    obtain ⟨out, e, len, each⟩ := ih (fun j hj => h j (by omega)) (by omega) (by omega)
    obtain ⟨hb, lb, h0, h1, h2⟩ := h n (by omega)
    have ew : s.assembleWord n = .value (wordOf hb lb) := State.assembleWord_value (by omega) (by omega) h0 h1
    refine ⟨out ++ [wordOf hb lb], by simp only [State.assembleWords, e, ew], by simp [len], fun j hj => ?_⟩
    rcases Nat.lt_succ_iff_lt_or_eq.mp hj with hj | rfl
    · obtain ⟨hb', lb', g0, g1, g2, g3⟩ := each j hj
      exact ⟨hb', lb', g0, g1, g2, by rw [List.getElem?_append_left (by omega), g3]⟩
    · exact ⟨hb, lb, h0, h1, h2, by rw [List.getElem?_append_right (by omega), len, Nat.sub_self]; rfl⟩

/-! ### What the block's own step does -/

/-- What the block's own step does from a sound busy state: the moves of `Move`, each with what makes it sound. -/
inductive SoundMove (s : State) (op : Op) : State → Prop where
  | stay : SoundMove s op s
  | wrote (as : List Draw) (e : Event) (count : (stepCounts op)[s.stepNo]? = some 0)
      (words : s.words.length = wordsBefore op s.stepNo) (notSum : ∀ b0 b1, op ≠ .checksum b0 b1)
      (legal : eventLegal s.params (some op) e) :
      SoundMove s op (State.stepDone (State.record { s with answers := as } e))
  | failed (as : List Draw) (e : Event) (er : Error) (legal : eventLegal s.params (some op) e)
      (allowed : mayEndWith s.params op er = true) :
      SoundMove s op (State.raise (State.record { s with answers := as } e) er)
  | received (as : List Draw) (e : Event) (n : Nat) (bytes : List Byte) (reading : InRead s op n)
      (full : bytes.length = 3 * n) (legal : eventLegal s.params (some op) e) :
      SoundMove s op { State.record { s with answers := as } e with
        buf := s.buf.writeBytes 0 bytes, live := 3 * n, phase := .checkHi n 0 }
  | retries (as : List Draw) (e : Event) (n a l : Nat) (ph : Phase) (reading : InRead s op n)
      (attempts : attemptsFit s.params a) (loop : ph = .retryDelay n a ∨ ph = .retryRead n a)
      (legal : eventLegal s.params (some op) e) :
      SoundMove s op { State.record { s with answers := as } e with phase := ph, live := l }
  | accumulated (b : Byte) (ph : Phase) (reaches : phaseInv ((s.setAcc b).goto ph) op) :
      SoundMove s op ((s.setAcc b).goto ph)
  | summed (b : Byte) (r : Response) (fits : responseFits s.params op r = true) :
      SoundMove s op ((s.setAcc b).stepDone.goto (.respond r))
  | validated (b : Byte) (n : Nat) (out : List Word) (reading : InRead s op n) (live : s.live = 3 * n)
      (len : out.length = n)
      (each : ∀ j, j < n → ∃ h l, s.buf.read (3 * j) = some h ∧ s.buf.read (3 * j + 1) = some l ∧
        s.buf.read (3 * j + 2) = some (checksum h l) ∧ out[j]? = some (wordOf h l)) :
      SoundMove s op ((s.setAcc b).appendWords out).stepDone
  | raised (acc : Option Byte) (er : Error) (allowed : mayEndWith s.params op er = true) :
      SoundMove s op (State.raise { s with acc := acc } er)
  | emitted (r : Response) (fits : responseFits s.params op r = true) : SoundMove s op (s.emit r)

/-- The block's own step answers a sound move. -/
def Moves (s : State) (op : Op) (o : Out) : Prop := ∃ t, o = .next t ∧ SoundMove s op t

theorem length_take_draw {n : Nat} (h : n = 1 ∨ n = 2) (r : Vector Byte 6) :
    (r.toList.take (3 * n)).length = 3 * n := by
  rw [List.length_take, Vector.length_toList]; omega

/-- A successful read of an n-word response in full. -/
theorem Moves.deliver {s : State} {op : Op} {n : Nat} (as : List Draw) (e : Event) (r : Vector Byte 6)
    (reading : InRead s op n) (legal : eventLegal s.params (some op) e) :
    Moves s op (deliver n (r.toList.take (3 * n)) (State.record { s with answers := as } e)) :=
  have fits : 3 * n ≤ bufSize := by have := reading.range; simp only [bufSize]; omega
  ⟨_, deliver_of_le _ _ fits, .received as e n _ reading (length_take_draw reading.range r) legal⟩

/-- A write of an operation whose row of R222 has TransportFailure. -/
theorem Moves.busWrite {s : State} {op : Op} {f : List Byte} (count : (stepCounts op)[s.stepNo]? = some 0)
    (words : s.words.length = wordsBefore op s.stepNo) (writes : Op.writes op = true)
    (notSum : ∀ b0 b1, op ≠ .checksum b0 b1)
    (legal : commandFrameLegal s.params (some op) f ∨ configFrameLegal s.params (some op) f) :
    Moves s op (busWrite f s) := by
  rcases busWrite_cases f s with e | ⟨as, e⟩ | ⟨as, c, e⟩
  · exact ⟨s, e, .stay⟩
  · exact ⟨_, e, .wrote as _ count words notSum ⟨rfl, legal⟩⟩
  · exact ⟨_, e, .failed as _ _ ⟨rfl, legal⟩ writes⟩

theorem attemptsFit_zero {p : Params} (h : p.wf = true) : attemptsFit p 0 := by
  simp only [Params.wf, Bool.and_eq_true] at h
  obtain ⟨⟨⟨⟨retry, -⟩, -⟩, -⟩, -⟩ := h
  unfold attemptsFit
  split
  · trivial
  · rename_i k hk
    rw [hk] at retry
    exact of_decide_eq_true retry

/-- The loop goes round again only below its bound (R182). -/
theorem attemptsFit_succ {p : Params} {a : Nat} (h : attemptsFit p a) (hk : p.retry ≠ .bounded (a + 1)) :
    attemptsFit p (a + 1) := by
  unfold attemptsFit at h ⊢
  split
  · trivial
  · rename_i k e
    rw [e] at h hk
    have : k ≠ a + 1 := fun e' => hk (by rw [e'])
    simp only at h
    omega

/-- A read is of 3 or 6 bytes. -/
theorem three_or_six {n : Nat} (h : n = 1 ∨ n = 2) : 3 * n = 3 ∨ 3 * n = 6 := by omega

theorem Moves.execRead {s : State} {op : Op} {f : List Byte} {n : Nat} (hp : s.params.wf = true)
    (reading : InRead s op n) (legal : commandFrameLegal s.params (some op) f) : Moves s op (execRead f n s) := by
  have size := three_or_six reading.range
  rcases execRead_cases f n s with e | ⟨as, r, e⟩ | ⟨as, c, e⟩
  · exact ⟨s, e, .stay⟩
  · rw [e]
    exact .deliver as _ r reading ⟨rfl, legal, size, length_take_draw reading.range r⟩
  · exact ⟨_, e, .retries as _ n 0 0 _ reading (attemptsFit_zero hp) (.inl rfl) ⟨rfl, legal, size, trivial⟩⟩

theorem Moves.retryDelay {s : State} {op : Op} {n a : Nat} (reading : InRead s op n)
    (attempts : attemptsFit s.params a) : Moves s op (retryDelay n a s) :=
  ⟨_, rfl, .retries s.answers _ n a s.live _ reading attempts (.inr rfl) rfl⟩

theorem Moves.retryRead {s : State} {op : Op} {n a : Nat} (reading : InRead s op n)
    (attempts : attemptsFit s.params a) : Moves s op (retryRead n a s) := by
  have size := three_or_six reading.range
  rcases retryRead_cases n a s with e | ⟨as, r, e⟩ | ⟨as, c, e⟩
  · exact ⟨s, e, .stay⟩
  · rw [e]
    exact .deliver as _ r reading ⟨rfl, size, length_take_draw reading.range r⟩
  · rw [e]
    rcases retryFailed_cases n a c
      (State.record { s with answers := as } (.read s.params.devAddr (3 * n) (.err c))) with ⟨e, hk⟩ | ⟨e, hk⟩ <;>
      rw [e]
    · exact ⟨_, rfl, .retries as _ n (a + 1) s.live _ reading (attemptsFit_succ attempts hk) (.inl rfl)
        ⟨rfl, size, trivial⟩⟩
    · refine ⟨_, rfl, .failed as _ _ ⟨rfl, size, trivial⟩ ?_⟩
      have bounded : s.params.retry = .bounded (a + 1) := hk
      simp only [mayEndWith, reading.reads, bounded, RetryPolicy.isBounded, Bool.and_self]

theorem Moves.checkHi {s : State} {op : Op} {n i : Nat} (reading : InRead s op n) (response : HasResponse s n)
    (hi : i < n) (passed : Passed s i) : Moves s op (checkHi n i s) := by
  obtain ⟨hb, lb, cb, h0, h1, h2⟩ := response.word hi
  have hn : n ≤ 2 := by have := reading.range; omega
  have live := response.live
  refine ⟨_, checkHi_value (State.wordBytes_value (by omega) (by omega) h0 h1 h2), .accumulated _ _ ?_⟩
  exact ⟨⟨reading.count, reading.range, reading.words⟩, ⟨response.live, response.bytes⟩, hi, passed, hb, h0, rfl⟩

theorem Moves.checkLo {s : State} {op : Op} {n i : Nat} (reading : InRead s op n) (response : HasResponse s n)
    (hi : i < n) (passed : Passed s i) {hb : Byte} (h0 : s.buf.read (3 * i) = some hb)
    (acc : s.acc = some (fold crcInit hb)) : Moves s op (checkLo n i s) := by
  obtain ⟨hb', lb, cb, h0', h1, h2⟩ := response.word hi
  obtain rfl : hb = hb' := Option.some.inj (h0.symm.trans h0')
  have hn : n ≤ 2 := by have := reading.range; omega
  have live := response.live
  rw [checkLo_value (State.wordBytes_value (by omega) (by omega) h0 h1 h2) acc, checksumOut_fold]
  by_cases hc : cb = checksum hb lb
  · subst hc
    have passed' : Passed s (i + 1) := passed.succ h0 h1 h2
    rw [if_pos rfl]
    by_cases more : i + 1 < n
    · rw [if_pos more]
      exact ⟨_, rfl, .accumulated _ _ ⟨⟨reading.count, reading.range, reading.words⟩,
        ⟨response.live, response.bytes⟩, more, passed'⟩⟩
    · obtain rfl : n = i + 1 := by omega
      obtain ⟨out, e, len, each⟩ := passed'.assembleWords hn (by omega)
      rw [if_neg more]
      have e' : (s.setAcc (fold (fold crcInit hb) lb)).assembleWords (i + 1) = .value out := by
        rw [← e]; exact State.assembleWords_congr rfl rfl
      exact ⟨_, appendValidated_value e', .validated _ _ out reading live len each⟩
  · rw [if_neg hc]
    exact ⟨_, rfl, .raised (some _) .checksumMismatch reading.reads⟩

/-- The value of a CHECKSUM request (R91, R187). -/
theorem Moves.sumLo {s : State} {b0 b1 : Byte} (acc : s.acc = some (fold crcInit b0)) :
    Moves s (.checksum b0 b1) (sumLo b1 s) := by
  unfold Machine.sumLo
  rw [accStep_some _ _ acc]
  exact ⟨_, rfl, .summed _ _ (decide_eq_true rfl)⟩

/-- The beginning of a step of a sound operation, or its end. -/
theorem Moves.begin {s : State} {op : Op} (hp : s.params.wf = true) (b : Begins s op)
    (within : s.stepNo ≤ (stepCounts op).length) (words : s.words.length = wordsBefore op s.stepNo)
    (sumOnce : ∀ b0 b1, op = .checksum b0 b1 → s.stepNo = 0) : Moves s op (blockStep s) := by
  cases b with
  | write f e count writes notSum legal => rw [e]; exact .busWrite count words writes notSum legal
  | read f n e range count reads legal => rw [e]; exact .execRead hp ⟨count, range, words⟩ legal
  | invalid cmd n is range e => subst is; exact ⟨_, e, .raised s.acc .invalidInput (decide_eq_true range)⟩
  | sum b0 b1 is e =>
    subst is
    exact ⟨_, e.trans rfl, .accumulated _ _ ⟨b0, rfl, rfl⟩⟩
  | ended e past =>
    have notSum : ∀ b0 b1, op ≠ .checksum b0 b1 := by
      intro b0 b1 is
      have := sumOnce b0 b1 is
      subst is
      simp only [stepCounts, List.length_singleton] at past
      omega
    rw [Nat.le_antisymm within past] at words
    obtain ⟨v, ev, fits⟩ := successValue_of_words words notSum
    exact ⟨_, e.trans (finish_value ev), .emitted _ fits⟩

/-- A sound busy block answers a sound move of the operation that runs. -/
theorem blockStep_sound {s : State} (h : BlockInv s) (hb : s.busy = true) :
    ∃ op, s.op = some op ∧ op.wf s.params = true ∧ phaseInv s op ∧ Moves s op (blockStep s) := by
  obtain ⟨op, ho, hw, pos⟩ := h.running hb
  refine ⟨op, ho, hw, pos, ?_⟩
  unfold phaseInv at pos
  cases hp : s.phase <;> simp only [hp] at pos
  case ready =>
    obtain ⟨within, words, sumOnce⟩ := pos
    exact .begin h.params (begins hb hp ho h.params hw) within words sumOnce
  case retryDelay n a =>
    obtain ⟨reading, attempts⟩ := pos
    rw [blockStep_retryDelay hb hp]; exact .retryDelay reading attempts
  case retryRead n a =>
    obtain ⟨reading, attempts⟩ := pos
    rw [blockStep_retryRead hb hp]; exact .retryRead reading attempts
  case checkHi n i =>
    obtain ⟨reading, response, hi, passed⟩ := pos
    rw [blockStep_checkHi hb hp]; exact .checkHi reading response hi passed
  case checkLo n i =>
    obtain ⟨reading, response, hi, passed, b, h0, acc⟩ := pos
    rw [blockStep_checkLo hb hp]; exact .checkLo reading response hi passed h0 acc
  case sumLo b1 =>
    obtain ⟨b0, rfl, acc⟩ := pos
    rw [blockStep_sumLo hb hp]; exact .sumLo acc
  case respond r => exact ⟨_, blockStep_respond hb hp, .emitted r pos⟩

/-- A sound block's own step: it waits idle, or makes a sound move of the operation that runs. -/
theorem blockStep_sound_cases {s t : State} (h : BlockInv s) (hs : blockStep s = .next t) :
    (s.busy = false ∧ t = s) ∨
      ∃ op, s.busy = true ∧ s.op = some op ∧ op.wf s.params = true ∧ phaseInv s op ∧ SoundMove s op t := by
  cases hb : s.busy with
  | false => rw [blockStep_idle hb] at hs; cases hs; exact .inl ⟨rfl, rfl⟩
  | true =>
    obtain ⟨op, ho, hw, pos, u, e, m⟩ := blockStep_sound h hb
    rw [e] at hs
    cases hs
    exact .inr ⟨op, rfl, ho, hw, pos, m⟩

theorem blockStep_sound_next {s : State} (h : BlockInv s) : ∃ t, blockStep s = .next t := by
  cases hb : s.busy with
  | false => exact ⟨s, blockStep_idle hb⟩
  | true =>
    obtain ⟨op, -, -, -, t, e, -⟩ := blockStep_sound h hb
    exact ⟨t, e⟩

/-- A step of a sound block, a request presented or the block's own, from the state with the caller's move made. -/
theorem step_sound_cases {s : State} (h : BlockInv s) :
    ∃ s' : State, BlockInv s' ∧ (∃ rest, s' = { s with caller := rest }) ∧
      ((∃ op : Op, op.wf s'.params = true ∧ step s = present op s') ∨ step s = blockStep s') := by
  rcases step_cases s with ⟨op, rest, hc, e⟩ | ⟨rest, hc, e⟩ | e
  · rcases hc with hc | hc
    · exact ⟨_, h.tail hc, ⟨rest, rfl⟩, .inl ⟨op, h.caller (.request op) (hc ▸ List.mem_cons_self ..), e⟩⟩
    · exact ⟨_, h.tail hc, ⟨rest, rfl⟩, .inl ⟨op, h.caller (.barge op) (hc ▸ List.mem_cons_self ..), e⟩⟩
  · exact ⟨_, h.tail hc, ⟨rest, rfl⟩, .inr e⟩
  · exact ⟨s, h, ⟨s.caller, rfl⟩, .inr e⟩

/-! ### Progress -/

/-- Settles O48: a well-typed request is accepted or refused as reentrant, and the block's own step answers from every
position the invariant allows. -/
theorem soundStatesNeverStop : Obligations.SoundStatesNeverStop := by
  intro s h
  obtain ⟨s', h', -, ⟨op, hw, e⟩ | e⟩ := step_sound_cases h
  · rw [e]
    cases hb : s'.busy with
    | false => exact ⟨_, present_idle hw hb⟩
    | true => exact ⟨_, present_busy hw hb⟩
  · rw [e]; exact blockStep_sound_next h'

/-! ### The invariant -/

/-- A busy state inside its operation, with the rest of the invariant as before. -/
theorem BlockInv.of_busy {s t : State} {op : Op} (h : BlockInv s) (params : t.params = s.params)
    (caller : t.caller = s.caller) (written : t.faults.readUnwritten = s.faults.readUnwritten)
    (buf : t.buf.wf = true) (gathered : t.words.length ≤ 3) (busy : t.busy = true) (ho : t.op = some op)
    (hw : op.wf s.params = true) (pos : phaseInv t op) : BlockInv t where
  params := by rw [params]; exact h.params
  buf := buf
  gathered := gathered
  caller := by rw [params, caller]; exact h.caller
  written := written.trans h.written
  idle := fun hb => by rw [busy] at hb; cases hb
  running := fun _ => ⟨op, ho, by rw [params]; exact hw, pos⟩

/-- A sound move reaches a sound state. -/
theorem SoundMove.keeps_inv {s t : State} {op : Op} (m : SoundMove s op t) (h : BlockInv s) (hb : s.busy = true)
    (ho : s.op = some op) (hw : op.wf s.params = true) : BlockInv t := by
  cases m with
  | stay => exact h
  | wrote as e count words notSum legal =>
    refine h.of_busy rfl rfl rfl h.buf h.gathered hb ho hw ⟨?_, ?_, fun b0 b1 is => absurd is (notSum b0 b1)⟩
    · exact (List.getElem?_eq_some_iff.mp count).1
    · exact words.trans (wordsBefore_succ count).symm
  | failed as e er legal allowed => exact h.of_busy rfl rfl rfl h.buf h.gathered hb ho hw allowed
  | received as e n bytes reading full legal =>
    have fits : bytes.length ≤ bufSize := by have := reading.range; simp only [bufSize]; omega
    have filled : ∀ a, a < 3 * n → ∃ b, (s.buf.writeBytes 0 bytes).read a = some b := by
      intro a ha
      rw [← Nat.zero_add a, Memory.read_writeBytes_inside bytes s.buf 0 a (by omega)]
      exact ⟨_, List.getElem?_eq_getElem (by omega)⟩
    refine h.of_busy rfl rfl rfl ?_ h.gathered hb ho hw ?_
    · exact Memory.wf_writeBytes bytes s.buf 0 (by omega) h.buf
    · exact ⟨⟨reading.count, reading.range, reading.words⟩, ⟨rfl, filled⟩, by have := reading.range; omega,
        fun j hj => absurd hj (Nat.not_lt_zero j)⟩
  | retries as e n a l ph reading attempts loop legal =>
    refine h.of_busy rfl rfl rfl h.buf h.gathered hb ho hw ?_
    rcases loop with rfl | rfl <;> exact ⟨⟨reading.count, reading.range, reading.words⟩, attempts⟩
  | accumulated b ph reaches => exact h.of_busy rfl rfl rfl h.buf h.gathered hb ho hw reaches
  | summed b r fits => exact h.of_busy rfl rfl rfl h.buf h.gathered hb ho hw fits
  | validated b n out reading live len each =>
    have count : (s.words ++ out).length = wordsBefore op (s.stepNo + 1) := by
      rw [List.length_append, reading.words, len, wordsBefore_succ reading.count]
    refine h.of_busy rfl rfl rfl h.buf ?_ hb ho hw ⟨?_, count, fun b0 b1 is => ?_⟩
    · exact count.trans_le (wordsBefore_succ_le reading.count reading.range)
    · exact (List.getElem?_eq_some_iff.mp reading.count).1
    · subst is; exact absurd reading.reads Bool.noConfusion
  | raised acc er allowed => exact h.of_busy rfl rfl rfl h.buf h.gathered hb ho hw allowed
  | emitted r fits =>
    exact ⟨h.params, h.buf, h.gathered, h.caller, h.written, fun _ => ⟨rfl, rfl, rfl⟩, fun hb => nomatch hb⟩

theorem BlockInv.present {s t : State} {op : Op} (h : BlockInv s) (hs : present op s = .next t) : BlockInv t := by
  rcases present_cases op s with e | ⟨hw, -, e⟩ | ⟨-, hb, e⟩ <;> rw [e] at hs <;> cases hs
  · exact h.of_busy rfl rfl rfl h.buf (Nat.zero_le 3) rfl rfl hw ⟨Nat.zero_le _, rfl, fun _ _ _ => rfl⟩
  · obtain ⟨running, ho, hw, pos⟩ := h.running hb
    exact h.of_busy rfl rfl rfl h.buf h.gathered hb ho hw (phaseInv_congr pos rfl rfl rfl rfl rfl rfl rfl)

/-- Settles O47: an accepted request is at the beginning of its operation, a reentrant one changes FAULT alone, and each
move of the block's own step reaches a position the invariant allows. -/
theorem everyStepKeepsTheInvariant : Obligations.EveryStepKeepsTheInvariant := by
  intro s t h hs
  obtain ⟨s', h', -, ⟨op, -, e⟩ | e⟩ := step_sound_cases h <;> rw [e] at hs
  · exact h'.present hs
  · rcases blockStep_sound_cases h' hs with ⟨-, rfl⟩ | ⟨op, hb, ho, hw, -, m⟩
    · exact h'
    · exact m.keeps_inv h' hb ho hw

/-! ### What sound steps do to WORDS, RESULT and the environment -/

/-- Settles O56: acceptance clears WORDS, and of the block's own moves only the end of a validation changes it. -/
theorem onlyValidatedWordsEnterWords : Obligations.OnlyValidatedWordsEnterWords := by
  intro s t h hs changed kept
  obtain ⟨s', h', ⟨rest, rfl⟩, ⟨op, -, e⟩ | e⟩ := step_sound_cases h <;> rw [e] at hs
  · rcases present_next hs with ⟨-, rfl⟩ | ⟨-, rfl⟩
    · exact absurd rfl kept
    · exact absurd rfl changed
  · rcases blockStep_sound_cases h' hs with ⟨-, rfl⟩ | ⟨op, -, -, -, -, m⟩
    · exact absurd rfl changed
    · cases m with
      | validated b n out reading live len each => exact ⟨n, out, rfl, len, live, each⟩
      | stay | wrote | failed | received | retries | accumulated | summed | raised | emitted =>
        exact absurd rfl changed

/-- Settles O53: only an emission ends an operation, and in a sound state it emits what the tables allow. -/
theorem responsesAreThoseOfTheTables : Obligations.ResponsesAreThoseOfTheTables := by
  intro s t h hs hb ended
  obtain ⟨s', h', ⟨rest, rfl⟩, ⟨op, -, e⟩ | e⟩ := step_sound_cases h <;> rw [e] at hs
  · rcases present_next hs with ⟨-, rfl⟩ | ⟨-, rfl⟩
    · exact absurd ended Bool.noConfusion
    · exact absurd (hb.symm.trans ended) Bool.noConfusion
  · rcases blockStep_sound_cases h' hs with ⟨idle, -⟩ | ⟨op, -, ho, -, -, m⟩
    · exact absurd (hb.symm.trans idle) Bool.noConfusion
    · cases m with
      | emitted r fits => exact ⟨op, r, ho, rfl, fits⟩
      | stay | wrote | failed | received | retries | accumulated | summed | validated | raised =>
        exact absurd (hb.symm.trans ended) Bool.noConfusion

/-- Settles O54: a request does nothing to the environment, and each sound move does nothing or one legal thing. -/
theorem environmentAccessesAreLegal : Obligations.EnvironmentAccessesAreLegal := by
  intro s t h hs
  obtain ⟨s', h', ⟨rest, rfl⟩, ⟨op, -, e⟩ | e⟩ := step_sound_cases h <;> rw [e] at hs
  · rcases present_next hs with ⟨-, rfl⟩ | ⟨-, rfl⟩ <;> exact .inl rfl
  · rcases blockStep_sound_cases h' hs with ⟨-, rfl⟩ | ⟨op, -, ho, -, -, m⟩
    · exact .inl rfl
    · have ho : s.op = some op := ho
      rw [ho]
      cases m with
      | wrote as e _ _ _ legal | failed as e _ legal | received as e _ _ _ _ legal | retries as e _ _ _ _ _ _ _ legal =>
        exact .inr ⟨e, rfl, legal⟩
      | stay | accumulated | summed | validated | raised | emitted => exact .inl rfl

end Sys2Proof.Machine

/-! Decoding and encoding (30_encoding.md sections 1, 3, 4 and 6): a row's code determines the row, so each side reads
back what it sends. -/

namespace Sys2Proof

open Sys2Proof.Machine

/-! ### The row of a code -/

/-- The row of format CMD of a fixed command id; the configuration's own row has format CFG and a setting. -/
def CommandId.row : CommandId → Instr
  | .autoExit => .autoExit
  | .readTrh => .readTrh | .readTmin => .readTmin | .readTmax => .readTmax
  | .readRhmin => .readRhmin | .readRhmax => .readRhmax
  | .heaterDis => .heaterDis | .heaterEn => .heaterEn
  | .heaterCfg => .heaterCfg 0
  | .statusRead => .statusRead | .statusClear => .statusClear
  | .serial0 => .serial0 | .serial1 => .serial1 | .serial2 => .serial2
  | .mfrId => .mfrId | .softReset => .softReset

theorem Instr.eq_row_of_fixedOf {i : Instr} {id : CommandId} (h : i.fixedOf = some id) :
    i = id.row ∧ id ≠ .heaterCfg := by
  cases i <;> simp only [Instr.fixedOf, Option.some.injEq, reduceCtorEq] at h <;> subst h <;>
    exact ⟨rfl, CommandId.noConfusion⟩

theorem Instr.ofStart_of_startOf {i : Instr} {r : Nat} {m : LowPowerMode} (h : i.startOf = some (r, m)) :
    Instr.ofStart r m = some i := by
  cases i <;> simp only [Instr.startOf, Option.some.injEq, Prod.mk.injEq, reduceCtorEq] at h <;>
    obtain ⟨rfl, rfl⟩ := h <;> rfl

/-- A row's code is START(r, m) for a start row and the code of its id for a fixed one (R93). -/
theorem Instr.cmdCodeOf_eq_some_iff {p : Params} {i : Instr} {code : Word} :
    i.cmdCodeOf p = some code ↔
      (∃ r m, i.startOf = some (r, m) ∧ p.start r m = some code) ∨
        i.startOf = none ∧ ∃ id, i.fixedOf = some id ∧ p.code id = code := by
  unfold Instr.cmdCodeOf
  cases hs : i.startOf with
  | some x => obtain ⟨r, m⟩ := x; simp
  | none => cases hf : i.fixedOf <;> simp

/-- Under R95 two rows with one code are the same row. -/
theorem Instr.eq_of_cmdCodeOf {p : Params} (distinct : p.codes.Nodup) {i j : Instr} {code : Word}
    (hi : i.cmdCodeOf p = some code) (hj : j.cmdCodeOf p = some code) : i = j := by
  rcases Instr.cmdCodeOf_eq_some_iff.mp hi with ⟨r, m, ei, si⟩ | ⟨-, id, fi, ci⟩ <;>
    rcases Instr.cmdCodeOf_eq_some_iff.mp hj with ⟨r', m', ej, sj⟩ | ⟨-, id', fj, cj⟩
  · obtain ⟨rfl, rfl⟩ := Params.start_injective distinct si sj
    exact Option.some.inj ((Instr.ofStart_of_startOf ei).symm.trans (Instr.ofStart_of_startOf ej))
  · exact absurd cj (Params.code_ne_of_start distinct id' si)
  · exact absurd ci (Params.code_ne_of_start distinct id sj)
  · obtain rfl := Params.code_injective distinct (ci.trans cj.symm)
    exact (Instr.eq_row_of_fixedOf fi).1.trans (Instr.eq_row_of_fixedOf fj).1.symm

/-- A row with a code is one of the rows that are searched. -/
theorem Instr.mem_cmdRows_of_code {p : Params} {i : Instr} {code : Word} (h : i.cmdCodeOf p = some code) :
    i ∈ Instr.cmdRows := by
  have rows : ∀ j : Instr, j.startOf ≠ none ∨ j.fixedOf ≠ none → j ∈ Instr.cmdRows := by
    intro j
    cases j <;> simp [Instr.startOf, Instr.fixedOf, Instr.cmdRows]
  rcases Instr.cmdCodeOf_eq_some_iff.mp h with ⟨r, m, e, -⟩ | ⟨-, id, e, -⟩
  · exact rows i (.inl (by rw [e]; exact Option.some_ne_none _))
  · exact rows i (.inr (by rw [e]; exact Option.some_ne_none _))

/-- A row with a code is found by it. -/
theorem rowOfCode_of_cmdCodeOf {p : Params} (distinct : p.codes.Nodup) {i : Instr} {code : Word}
    (h : i.cmdCodeOf p = some code) : rowOfCode p code = some i := by
  cases found : rowOfCode p code with
  | none =>
    have := List.find?_eq_none.mp found i (Instr.mem_cmdRows_of_code h)
    exact absurd (decide_eq_true h) this
  | some j =>
    obtain ⟨-, -, hj⟩ := rowOfCode_some found
    rw [Instr.eq_of_cmdCodeOf distinct hj h]

/-- A row with a code is another than the configuration, whose frame does not end with its code. -/
theorem Instr.cmdCodeOf_ne_heaterCfg {p : Params} (distinct : p.codes.Nodup) {i : Instr} {code : Word}
    (h : i.cmdCodeOf p = some code) : code ≠ p.code .heaterCfg := by
  intro e
  rcases Instr.cmdCodeOf_eq_some_iff.mp h with ⟨r, m, -, s⟩ | ⟨-, id, f, c⟩
  · exact Params.code_ne_of_start distinct .heaterCfg s e.symm
  · exact (Instr.eq_row_of_fixedOf f).2 (Params.code_injective distinct (c.trans e))

/-- A start command without a row has no row's code. -/
theorem rowOfCode_of_start {p : Params} (distinct : p.codes.Nodup) {r : Nat} {m : LowPowerMode} {code : Word}
    (noRow : Instr.ofStart r m = none) (h : p.start r m = some code) : rowOfCode p code = none := by
  cases found : rowOfCode p code with
  | none => rfl
  | some j =>
    obtain ⟨-, -, hj⟩ := rowOfCode_some found
    rcases Instr.cmdCodeOf_eq_some_iff.mp hj with ⟨r', m', e, s⟩ | ⟨-, id, -, c⟩
    · obtain ⟨rfl, rfl⟩ := Params.start_injective distinct h s
      rw [Instr.ofStart_of_startOf e] at noRow
      cases noRow
    · exact absurd c (Params.code_ne_of_start distinct id h)

/-- A start command is found by its code. -/
theorem startOfCode_of_start {p : Params} (distinct : p.codes.Nodup) {r : Nat} {m : LowPowerMode} {code : Word}
    (hr : r < p.starts.length) (h : p.start r m = some code) : startOfCode p code = some (r, m) := by
  obtain ⟨⟨r', m'⟩, found⟩ := Option.isSome_iff_exists.mp (startOfCode_isSome hr h)
  obtain ⟨rfl, rfl⟩ := Params.start_injective distinct h (startOfCode_some found)
  exact found

/-! ### Frames read back -/

/-- A frame of a code that names a command reads as that command. -/
theorem decodeFrame_enc {p : Params} {code : Word} {c : Command} (rest : List Byte)
    (other : code ≠ p.code .heaterCfg) (named : commandOfCode p code = some c) :
    decodeFrame p (enc code ++ rest) = .ok (c, rest) := by
  have e := decodeFrame_be16 p code rest
  rw [if_neg other, named] at e
  exact e

/-- The setting of a configuration frame, and its check byte in the variant, read back (R101). -/
theorem decodeConfig_setting (p : Params) (setting : Word) (rest : List Byte) :
    decodeConfig p (be16 setting ++
        (if p.heaterCfgCrc then [checksum (hiByte setting) (loByte setting)] else []) ++ rest) =
      .ok (.row (.heaterCfg setting), rest) := by
  cases h : p.heaterCfgCrc <;> simp [decodeConfig, be16, h]

theorem decodeFrame_encHeaterCfg (p : Params) (setting : Word) (rest : List Byte) :
    decodeFrame p (encHeaterCfg p setting ++ rest) = .ok (.row (.heaterCfg setting), rest) := by
  rw [encHeaterCfg, List.append_assoc, List.append_assoc, decodeFrame_be16, if_pos rfl, ← List.append_assoc]
  exact decodeConfig_setting p setting rest

/-- A request's bytes read back, whatever follows (R90; log 9). -/
theorem decodeRequest_encodeOp (op : Op) (rest : List Byte) :
    decodeRequest (encodeOp op ++ rest) = .ok (op.instr, rest) := by
  cases op with
  | oneShot m => cases m <;> rfl
  | autoStart r m => cases m <;> simp [encodeOp, decodeRequest, Op.instr, LowPowerMode.index, lpmOf]
  | autoRead t => cases t <;> rfl
  | heater l => simp [encodeOp, decodeRequest, Op.instr]
  | readStatus c => cases c <;> rfl
  | exec cmd n => simp [encodeOp, decodeRequest, Op.instr, be16]
  | autoStop | readSerial | readMfrId | softReset | checksum => rfl

/-! ### The two directions -/

theorem Instr.code_of_wf {p : Params} {i : Instr} (h : i.wf p = true) (hop : i.opOf = none) :
    (∃ setting, i = .heaterCfg setting) ∨ ∃ code, i.cmdCodeOf p = some code := by
  cases hs : i.startOf with
  | some x =>
    obtain ⟨r, m⟩ := x
    simp only [Instr.wf, hs, decide_eq_true_eq] at h
    exact .inr ⟨_, Instr.cmdCodeOf_eq_some_iff.mpr (.inl ⟨r, m, hs, Params.start_of_lt m h⟩)⟩
  | none =>
    cases hf : i.fixedOf with
    | some id => exact .inr ⟨_, Instr.cmdCodeOf_eq_some_iff.mpr (.inr ⟨hs, id, hf, rfl⟩)⟩
    | none =>
      cases i <;> simp only [Instr.startOf, Instr.fixedOf, Instr.opOf, reduceCtorEq] at hs hf hop
      exact .inl ⟨_, rfl⟩

/-- Settles O10: a request's bytes determine its operands, a configuration frame its setting, and under R95 a code its
row or its start command. -/
theorem decodeOfEncodeIsTheInstruction : Obligations.DecodeOfEncodeIsTheInstruction := by
  intro p c hp hc
  have distinct : p.codes.Nodup := Params.nodup_codes_of_wf hp
  cases c with
  | row i =>
    cases hop : i.opOf with
    | some op =>
      refine ⟨_, encode_request hop, fun rest => ?_⟩
      have port : Command.port (.row i) = .request := by simp only [Command.port, Instr.port, hop]
      rw [port, ← Instr.instr_of_opOf hop]
      exact decode_request_ok (decodeRequest_encodeOp op rest)
    | none =>
      have port : Command.port (.row i) = .bus := by simp only [Command.port, Instr.port, hop]
      rw [port]
      rcases Instr.code_of_wf hc hop with ⟨setting, rfl⟩ | ⟨code, e⟩
      · exact ⟨_, encode_heaterCfg p setting, decodeFrame_encHeaterCfg p setting⟩
      · refine ⟨_, encode_of_code e, fun rest => decodeFrame_enc rest ?_ ?_⟩
        · exact Instr.cmdCodeOf_ne_heaterCfg distinct e
        · simp only [commandOfCode, rowOfCode_of_cmdCodeOf distinct e]
  | start r m =>
    simp only [Command.wf, Bool.and_eq_true, decide_eq_true_eq, Option.isNone_iff_eq_none] at hc
    obtain ⟨hr, noRow⟩ := hc
    have e := Params.start_of_lt m hr
    refine ⟨_, encodeCommand_start e, fun rest => decodeFrame_enc rest ?_ ?_⟩
    · exact (Params.code_ne_of_start distinct .heaterCfg e).symm
    · simp only [commandOfCode, rowOfCode_of_start distinct noRow e, startOfCode_of_start distinct hr e]

theorem be16_wordOf (h l : Byte) : be16 (wordOf h l) = [h, l] := by
  rw [be16, hiByte_wordOf, loByte_wordOf]

/-- What a configuration frame reads as after its code, and that no byte of it is dropped (R81, R101). -/
theorem decodeConfig_ok {p : Params} {bytes rest : List Byte} {c : Command} (h : decodeConfig p bytes = .ok (c, rest)) :
    ∃ setting, c = .row (.heaterCfg setting) ∧
      be16 (p.code .heaterCfg) ++ bytes = encHeaterCfg p setting ++ rest := by
  unfold decodeConfig at h
  split at h
  · rename_i hb lb rest'
    refine ⟨wordOf hb lb, ?_⟩
    split at h
    · rename_i variant
      split at h
      · split at h
        · rename_i check
          cases h
          simp [encHeaterCfg, be16_wordOf, variant, check]
        · cases h
      · cases h
    · rename_i source
      cases h
      simp [encHeaterCfg, be16_wordOf, source]
  · cases h

/-- The command a code names exists, and the code's frame is the command's. -/
theorem commandOfCode_exists {p : Params} {code : Word} {c : Command} (h : commandOfCode p code = some c) :
    c.port = .bus ∧ c.wf p = true ∧ encodeCommand p c = some (enc code) := by
  rcases commandOfCode_some h with ⟨i, rfl, -, hop, e⟩ | ⟨r, m, rfl, noRow, e⟩
  · refine ⟨by simp only [Command.port, Instr.port, hop], ?_, encode_of_code e⟩
    rcases Instr.cmdCodeOf_eq_some_iff.mp e with ⟨r, m, hs, e⟩ | ⟨hs, -⟩
    · obtain ⟨hr, -⟩ := Params.start_eq_some_iff.mp e
      simpa only [Command.wf, Instr.wf, hs, decide_eq_true_eq] using hr
    · simp only [Command.wf, Instr.wf, hs, hop]
  · refine ⟨rfl, ?_, encodeCommand_start e⟩
    obtain ⟨hr, -⟩ := Params.start_eq_some_iff.mp e
    have unlisted : Instr.ofStart r m = none := by
      cases hi : Instr.ofStart r m with
      | none => rfl
      | some i =>
        have ei : i.cmdCodeOf p = some code :=
          Instr.cmdCodeOf_eq_some_iff.mpr (.inl ⟨r, m, Instr.startOf_ofStart hi, e⟩)
        exact absurd (decide_eq_true ei) (List.find?_eq_none.mp noRow i (Instr.mem_cmdRows_of_code ei))
    simp only [Command.wf, unlisted, Option.isNone_none, hr, decide_true, Bool.and_self]

/-- Settles O11: a frame that decodes is a configuration frame, or a code that names a command. -/
theorem encodeOfDecodedFrameIsTheFrame : Obligations.EncodeOfDecodedFrameIsTheFrame := by
  intro p bytes rest c h
  rw [decode_bus] at h
  unfold decodeFrame at h
  split at h
  · rename_i b0 b1 tail
    split at h
    · rename_i config
      obtain ⟨setting, rfl, e⟩ := decodeConfig_ok h
      refine ⟨rfl, rfl, _, encode_heaterCfg p setting, ?_⟩
      rw [← e, ← config, be16_wordOf]
      rfl
    · split at h
      · rename_i named
        cases h
        obtain ⟨port, wf, e⟩ := commandOfCode_exists named
        refine ⟨port, wf, _, e, ?_⟩
        rw [enc, be16_wordOf]
        rfl
      · cases h
  · cases h

/-! ### Written-out words and frames -/

/-- Settles O12: each word by evaluating the decoder on it. -/
theorem tableWordsDecodeToTheirRows : Obligations.TableWordsDecodeToTheirRows := by
  refine ⟨?_, ?_, ?_, ?_, ?_, ?_, ?_, ?_, ?_, ?_, ?_, ?_, ?_⟩ <;> decide

theorem Params.start_oneShot_of_wf {p : Params} (h : p.wf = true) : p.start 0 .lpm0 = some 0x2400 := by
  simp only [Params.wf, Bool.and_eq_true, decide_eq_true_eq] at h
  exact h.1.2

/-- Settles O14: R94's code has the bytes 0x24 and 0x00, and the configuration frame is its parts in order. -/
theorem framesAreBigEndian : Obligations.FramesAreBigEndian := by
  refine ⟨fun p hp => ⟨0x2400, Params.start_oneShot_of_wf hp, by decide⟩, fun code => rfl, ?source, ?variant⟩
  case source =>
    intro p setting h
    exact ⟨by simp only [encHeaterCfg, enc, h, Bool.false_eq_true, if_false, List.append_nil],
      by rw [length_encHeaterCfg, h]; rfl⟩
  case variant =>
    intro p setting h
    exact ⟨by simp only [encHeaterCfg, enc, h, if_true]; rfl, by rw [length_encHeaterCfg, h]; rfl⟩

end Sys2Proof

/-! The checksum's algebra (41_checksum.md R115, R116): the bit step is linear over xor and injective, so the table is;
an error of a codeword is detected exactly when its syndrome, the remainder of the error pattern, is nonzero. -/

namespace Sys2Proof.Machine

/-! ### The bit step and the table are linear and injective -/

theorem bstep_xor (a b : Byte) : bstep (a ^^^ b) = bstep a ^^^ bstep b := by
  unfold bstep
  rw [BitVec.getLsbD_xor, BitVec.shiftLeft_xor_distrib]
  cases a.getLsbD 7 <;> cases b.getLsbD 7
  · rfl
  · exact BitVec.xor_assoc ..
  · change a <<< 1 ^^^ b <<< 1 ^^^ crcPoly = a <<< 1 ^^^ crcPoly ^^^ b <<< 1
    ac_rfl
  · change a <<< 1 ^^^ b <<< 1 = a <<< 1 ^^^ crcPoly ^^^ (b <<< 1 ^^^ crcPoly)
    rw [BitVec.xor_comm (b <<< 1) crcPoly, ← BitVec.xor_assoc, xor_cancel_right]

/-- The polynomial's constant term is 1 and a shift's is 0, so the bit step loses nothing. -/
theorem eq_zero_of_bstep {a : Byte} (h : bstep a = 0) : a = 0 := by
  cases msb : a.getLsbD 7 with
  | true =>
    rw [bstep_of_msb msb] at h
    have low : ((a <<< 1) ^^^ (0x31 : Byte)).getLsbD 0 = (0 : Byte).getLsbD 0 := by rw [h]
    simp at low
  | false =>
    rw [bstep_of_not_msb msb] at h
    refine BitVec.eq_of_getLsbD_eq fun i hi => ?_
    rw [BitVec.ofNat_eq_ofNat, BitVec.getLsbD_zero]
    rcases Nat.lt_succ_iff_lt_or_eq.mp hi with hi | rfl
    · have shifted : (a <<< 1).getLsbD (i + 1) = (0 : Byte).getLsbD (i + 1) := by rw [h]
      rw [BitVec.getLsbD_shiftLeft] at shifted
      simpa [Nat.succ_lt_succ hi] using shifted
    · exact msb

theorem crcTable_xor (a b : Byte) : crcTable (a ^^^ b) = crcTable a ^^^ crcTable b := by
  simp only [crcTable, bstep_xor]

theorem crcTable_zero : crcTable 0 = 0 := rfl

theorem eq_zero_of_crcTable {a : Byte} (h : crcTable a = 0) : a = 0 := by
  unfold crcTable at h
  iterate 8 replace h := eq_zero_of_bstep h
  exact h

theorem crcTable_injective : Function.Injective crcTable := by
  intro a b h
  refine BitVec.xor_eq_zero_iff.mp (eq_zero_of_crcTable ?_)
  exact (crcTable_xor a b).trans (BitVec.xor_eq_zero_iff.mpr h)

theorem crcTable_surjective : Function.Surjective crcTable := Finite.surjective_of_injective crcTable_injective

/-! ### The checksum -/

/-- R115's closed form. -/
theorem checksum_eq (b0 b1 : Byte) : checksum b0 b1 = crcTable (crcTable (0xFF ^^^ b0) ^^^ b1) := checksumOut_eq _

/-- The bit-serial form of R116 law 1: eight bit steps are the table's. -/
theorem serialChecksum_eq (b0 b1 : Byte) : serialChecksum b0 b1 = checksum b0 b1 := (checksumOut_eq _).symm

/-- Settles O5: the two forms by their lemmas, the check value and the corner cases by evaluation. -/
theorem checksumAgreesWithItsBitSerialForm : Obligations.ChecksumAgreesWithItsBitSerialForm :=
  ⟨checksum_eq, fun b0 b1 => (serialChecksum_eq b0 b1).symm, by decide +kernel⟩

/-- Settles O6: the last accumulate is the table at the xor of the checksum and the check byte, and the table is zero at
zero alone. -/
theorem residueIsZeroExactlyForGoodWords : Obligations.ResidueIsZeroExactlyForGoodWords := by
  intro h l c
  have last : fold (fold (fold 0xFF h) l) c = crcTable (checksum h l ^^^ c) := by rw [checksum_eq]; rfl
  rw [last, eq_comm (a := c)]
  refine ⟨fun e => BitVec.xor_eq_zero_iff.mp (eq_zero_of_crcTable e), fun e => ?_⟩
  rw [BitVec.xor_eq_zero_iff.mpr e]; rfl

/-- What a difference of the payloads adds to the checksum. -/
theorem checksum_xor (a b c d : Byte) :
    checksum (a ^^^ c) (b ^^^ d) = checksum a b ^^^ crcTable (crcTable c ^^^ d) := by
  have first : crcTable (0xFF ^^^ (a ^^^ c)) = crcTable (0xFF ^^^ a) ^^^ crcTable c := by
    rw [← BitVec.xor_assoc, crcTable_xor]
  calc checksum (a ^^^ c) (b ^^^ d)
    _ = crcTable (crcTable (0xFF ^^^ a) ^^^ crcTable c ^^^ (b ^^^ d)) := by rw [checksum_eq, first]
    _ = crcTable (crcTable (0xFF ^^^ a) ^^^ b ^^^ (crcTable c ^^^ d)) := congrArg crcTable (by ac_rfl)
    _ = checksum a b ^^^ crcTable (crcTable c ^^^ d) := by rw [crcTable_xor, checksum_eq]

/-- Settles O7: the checksum of zero is 0x81, and both sides add the same difference to their checksums. -/
theorem checksumIsAffine : Obligations.ChecksumIsAffine := by
  intro a b c d
  have zero : checksum 0 0 = 0x81 := by decide +kernel
  have fromZero : checksum c d = 0x81 ^^^ crcTable (crcTable c ^^^ d) := by
    rw [← zero, ← checksum_xor, zero_xor, zero_xor]
  rw [checksum_xor, fromZero, BitVec.xor_comm 0x81, ← BitVec.xor_assoc, xor_cancel_right]

/-- Settles O8: the table takes each value once, at the xor of the first accumulate and the second byte. -/
theorem everyChecksumValueComesFromOneSecondByte : Obligations.EveryChecksumValueComesFromOneSecondByte := by
  intro b0 v
  obtain ⟨x, rfl⟩ := crcTable_surjective v
  refine ⟨crcTable (0xFF ^^^ b0) ^^^ x, ?_, fun b1 h => ?_⟩
  · rw [checksum_eq, xor_cancel_left]
  · rw [checksum_eq] at h
    rw [← crcTable_injective h, xor_cancel_left]

/-! ### Errors of a codeword -/

/-- The remainder of an error pattern of a 24-bit codeword: the change of the checksum, xor the change of the check
byte. -/
def syndrome (e : BitVec 24) : Byte :=
  crcTable (crcTable (e.extractLsb' 16 8) ^^^ e.extractLsb' 8 8) ^^^ e.extractLsb' 0 8

/-- A changed codeword passes the check only if its error pattern has syndrome zero. -/
theorem changed_fails {e : BitVec 24} (h : syndrome e ≠ 0) (hi lo : Byte) :
    checksum (hi ^^^ e.extractLsb' 16 8) (lo ^^^ e.extractLsb' 8 8) ≠ checksum hi lo ^^^ e.extractLsb' 0 8 := by
  rw [checksum_xor]
  intro pass
  exact h (BitVec.xor_eq_zero_iff.mpr ((BitVec.xor_right_inj _).mp pass))

theorem syndrome_xor (e f : BitVec 24) : syndrome (e ^^^ f) = syndrome e ^^^ syndrome f := by
  simp only [syndrome, BitVec.extractLsb'_xor, crcTable_xor]
  ac_rfl

/-- A byte of a pattern shifted by one: its own shift, and the top bit of the byte below. -/
theorem extractLsb'_shiftLeft_one (e : BitVec 24) {k : Nat} (hk : k ≤ 8) :
    (e <<< 1).extractLsb' (k + 8) 8 = (e.extractLsb' (k + 8) 8) <<< 1 ^^^ (e.extractLsb' k 8) >>> 7 := by
  refine BitVec.eq_of_getLsbD_eq fun i hi => ?_
  rw [BitVec.getLsbD_xor, BitVec.getLsbD_shiftLeft, BitVec.getLsbD_ushiftRight]
  simp only [BitVec.getLsbD_extractLsb', BitVec.getLsbD_shiftLeft]
  cases i with
  | zero => simp [show k + 8 < 24 by omega]
  | succ i => simp [hi, show i < 8 by omega, show k + 8 + (i + 1) < 24 by omega, show ¬ 7 + (i + 1) < 8 by omega]

/-- The lowest byte of a pattern shifted by one. -/
theorem extractLsb'_zero_shiftLeft_one (e : BitVec 24) : (e <<< 1).extractLsb' 0 8 = (e.extractLsb' 0 8) <<< 1 := by
  refine BitVec.eq_of_getLsbD_eq fun i hi => ?_
  simp only [BitVec.getLsbD_extractLsb', BitVec.getLsbD_shiftLeft]
  simp [hi, show i < 24 by omega, show i - 1 < 8 by omega]

/-- The table at a byte's top bit, shifted down, is what the bit step adds to the byte's shift. -/
theorem bstep_eq_shiftLeft_xor (a : Byte) : bstep a = a <<< 1 ^^^ crcTable (a >>> 7) := by
  have top : a >>> 7 = if a.getLsbD 7 then 1 else 0 := by
    refine BitVec.eq_of_getLsbD_eq fun i _ => ?_
    rw [BitVec.getLsbD_ushiftRight]
    cases i with
    | zero => cases a.getLsbD 7 <;> rfl
    | succ i =>
      rw [BitVec.getLsbD_of_ge a _ (by omega)]
      cases a.getLsbD 7 <;> simp
  rw [top]
  cases msb : a.getLsbD 7 with
  | true => exact bstep_of_msb msb
  | false => exact (bstep_of_not_msb msb).trans BitVec.xor_zero.symm

/-- The bytes' part of a shift: the table carries the bit that leaves a byte into the byte above. -/
theorem crcTable_carry (x b : Byte) : crcTable (bstep x ^^^ b >>> 7) ^^^ b <<< 1 = bstep (crcTable x ^^^ b) := by
  have comm : crcTable (bstep x) = bstep (crcTable x) := rfl
  rw [crcTable_xor, comm, bstep_xor, bstep_eq_shiftLeft_xor b]
  ac_rfl

/-- Shifting a pattern that keeps its top bit is a bit step of its syndrome: both multiply by x. -/
theorem syndrome_shiftLeft_one {e : BitVec 24} (h : e.getLsbD 23 = false) :
    syndrome (e <<< 1) = bstep (syndrome e) := by
  have top : (e.extractLsb' 16 8) <<< 1 = bstep (e.extractLsb' 16 8) := by
    refine (bstep_of_not_msb ?_).symm
    rw [BitVec.getLsbD_extractLsb', h]; rfl
  rw [syndrome, extractLsb'_shiftLeft_one e (k := 8) (by omega), extractLsb'_shiftLeft_one e (k := 0) (by omega),
    extractLsb'_zero_shiftLeft_one, top, ← BitVec.xor_assoc, crcTable_carry, crcTable_carry]
  rfl

/-! ### Bursts -/

theorem iterate_bstep_ne_zero {b : Byte} (h : b ≠ 0) (k : Nat) : bstep^[k] b ≠ 0 := by
  induction k with
  | zero => exact h
  | succ k ih => rw [Function.iterate_succ_apply']; exact fun e => ih (eq_zero_of_bstep e)

/-- The syndrome of an error within the check byte is the error. -/
theorem syndrome_zeroExtend (b : Byte) : syndrome (b.zeroExtend 24) = b := by
  have above {k : Nat} (hk : 8 ≤ k) : (b.zeroExtend 24).extractLsb' k 8 = 0 := by
    refine BitVec.eq_of_getLsbD_eq fun i hi => ?_
    simp [BitVec.getLsbD_of_ge b (k + i) (by omega)]
  have within : (b.zeroExtend 24).extractLsb' 0 8 = b := by
    refine BitVec.eq_of_getLsbD_eq fun i hi => ?_
    simp only [BitVec.getLsbD_extractLsb', BitVec.truncate_eq_setWidth, BitVec.getLsbD_setWidth, Nat.zero_add, hi,
      show i < 24 by omega, decide_true, Bool.true_and]
  rw [syndrome, above (k := 16) (by omega), above (k := 8) (by omega), within, crcTable_zero, zero_xor,
    crcTable_zero, zero_xor]

/-- The syndrome of a burst of at most 8 bits is its byte after one bit step for each place it is shifted by. -/
theorem syndrome_burst (b : Byte) {k : Nat} (hk : k ≤ 16) : syndrome (b.zeroExtend 24 <<< k) = bstep^[k] b := by
  induction k with
  | zero => rw [BitVec.shiftLeft_zero]; exact syndrome_zeroExtend b
  | succ k ih =>
    rw [Function.iterate_succ_apply', ← ih (by omega), BitVec.shiftLeft_add, syndrome_shiftLeft_one]
    simp [BitVec.getLsbD_of_ge b (23 - k) (by omega)]

/-! ### Up to three flipped bits -/

theorem syndrome_twoPow {i : Nat} (hi : i < 24) : syndrome (BitVec.twoPow 24 i) = bstep^[i] 1 := by
  induction i with
  | zero => exact syndrome_zeroExtend 1
  | succ i ih =>
    have shifted : BitVec.twoPow 24 (i + 1) = BitVec.twoPow 24 i <<< 1 := by
      simp only [BitVec.twoPow, BitVec.shiftLeft_add]
    rw [Function.iterate_succ_apply', ← ih (by omega), shifted, syndrome_shiftLeft_one]
    rw [BitVec.getLsbD_twoPow]
    simp
    omega

/-- The first 24 powers of x have distinct remainders. -/
theorem iterate_bstep_one_injective : ∀ i j : Fin 24, bstep^[i] 1 = bstep^[j] 1 → i = j := by decide +kernel

/-- The parity of a byte's lowest bits. -/
def parityBelow : Nat → Byte → Bool
  | 0, _ => false
  | n + 1, a => parityBelow n a ^^ a.getLsbD n

/-- The parity of a byte. -/
def parity (a : Byte) : Bool := parityBelow 8 a

theorem parityBelow_xor (n : Nat) (a b : Byte) : parityBelow n (a ^^^ b) = (parityBelow n a ^^ parityBelow n b) := by
  induction n with
  | zero => rfl
  | succ n ih => simp only [parityBelow, ih, BitVec.getLsbD_xor, Bool.xor_assoc, Bool.xor_left_comm]

theorem parity_xor (a b : Byte) : parity (a ^^^ b) = (parity a ^^ parity b) := parityBelow_xor 8 a b

/-- A shift loses the top bit. -/
theorem parity_shiftLeft_one (a : Byte) : parity (a <<< 1) = (parity a ^^ a.getLsbD 7) := by
  simp [parity, parityBelow]

/-- The polynomial is a multiple of x + 1: a bit step keeps the parity. -/
theorem parity_bstep (a : Byte) : parity (bstep a) = parity a := by
  cases msb : a.getLsbD 7 with
  | true =>
    have odd : parity 0x31 = true := by decide
    rw [bstep_of_msb msb, parity_xor, parity_shiftLeft_one, msb, odd, Bool.xor_assoc, Bool.xor_self, Bool.xor_false]
  | false => rw [bstep_of_not_msb msb, parity_shiftLeft_one, msb, Bool.xor_false]

theorem parity_syndrome_twoPow {i : Nat} (hi : i < 24) : parity (syndrome (BitVec.twoPow 24 i)) = true := by
  rw [syndrome_twoPow hi]
  clear hi
  induction i with
  | zero => rfl
  | succ i ih => rw [Function.iterate_succ_apply', parity_bstep, ih]

/-- Patterns with no bit in common together are their xor. -/
theorem or_eq_xor_of_disjoint {e f : BitVec 24} (h : ∀ k, e.getLsbD k = true → f.getLsbD k = false) :
    e ||| f = e ^^^ f := by
  refine BitVec.eq_of_getLsbD_eq fun k _ => ?_
  rw [BitVec.getLsbD_or, BitVec.getLsbD_xor]
  cases he : e.getLsbD k with
  | true => rw [h k he]; rfl
  | false => rw [Bool.false_or, Bool.false_xor]

theorem twoPow_disjoint {i j : Nat} (h : i ≠ j) (k : Nat) (hi : (BitVec.twoPow 24 i).getLsbD k = true) :
    (BitVec.twoPow 24 j).getLsbD k = false := by
  simp only [BitVec.getLsbD_twoPow, Bool.and_eq_true, Bool.and_eq_false_iff, decide_eq_true_eq,
    decide_eq_false_iff_not] at hi ⊢
  omega

/-- One or two flipped bits: a power of x has a remainder, and two different ones have different remainders. -/
theorem syndrome_pair_ne_zero (i j : Fin 24) : syndrome (BitVec.twoPow 24 i ||| BitVec.twoPow 24 j) ≠ 0 := by
  by_cases h : i = j
  · rw [h, BitVec.or_self, syndrome_twoPow j.isLt]
    exact iterate_bstep_ne_zero (by decide) j
  · rw [or_eq_xor_of_disjoint (twoPow_disjoint (Fin.val_ne_of_ne h)), syndrome_xor, syndrome_twoPow i.isLt,
      syndrome_twoPow j.isLt]
    exact fun e => h (iterate_bstep_one_injective i j (BitVec.xor_eq_zero_iff.mp e))

/-- Three different flipped bits: their remainders have odd parities. -/
theorem syndrome_triple_ne_zero {i j k : Fin 24} (hij : i ≠ j) (hik : i ≠ k) (hjk : j ≠ k) :
    syndrome (BitVec.twoPow 24 i ||| BitVec.twoPow 24 j ||| BitVec.twoPow 24 k) ≠ 0 := by
  have apart : ∀ b, (BitVec.twoPow 24 i ||| BitVec.twoPow 24 j).getLsbD b = true →
      (BitVec.twoPow 24 k).getLsbD b = false := by
    intro b hb
    rw [BitVec.getLsbD_or, Bool.or_eq_true] at hb
    exact hb.elim (twoPow_disjoint (Fin.val_ne_of_ne hik) b) (twoPow_disjoint (Fin.val_ne_of_ne hjk) b)
  intro zero
  have odd : parity (syndrome (BitVec.twoPow 24 i ||| BitVec.twoPow 24 j ||| BitVec.twoPow 24 k)) = true := by
    rw [or_eq_xor_of_disjoint apart, or_eq_xor_of_disjoint (twoPow_disjoint (Fin.val_ne_of_ne hij)), syndrome_xor,
      syndrome_xor, parity_xor, parity_xor, parity_syndrome_twoPow i.isLt, parity_syndrome_twoPow j.isLt,
      parity_syndrome_twoPow k.isLt]
    rfl
  rw [zero] at odd
  exact absurd odd (by decide)

/-- Settles O9: one or two flipped bits, and three, have a nonzero remainder by their lemmas; a burst's is the remainder
of its byte, which the bit steps of its place keep nonzero. -/
theorem shortErrorsAreDetected : Obligations.ShortErrorsAreDetected := by
  refine ⟨fun h l i j k => changed_fails ?flips h l, fun h l b k hb => changed_fails ?burst h l⟩
  case flips =>
    by_cases hij : i = j
    · rw [hij, BitVec.or_self]; exact syndrome_pair_ne_zero j k
    · by_cases hik : i = k
      · rw [hik, BitVec.or_comm (BitVec.twoPow 24 k), BitVec.or_assoc, BitVec.or_self]; exact syndrome_pair_ne_zero j k
      · by_cases hjk : j = k
        · rw [hjk, BitVec.or_assoc, BitVec.or_self]; exact syndrome_pair_ne_zero i k
        · exact syndrome_triple_ne_zero hij hik hjk
  case burst =>
    rw [syndrome_burst b (Nat.le_of_lt_succ k.isLt)]
    exact iterate_bstep_ne_zero hb k

end Sys2Proof.Machine

/-! The command rows (42_command_encoder.md R141 to R164): what each list of rows does, by the bus primitive it is. -/

namespace Sys2Proof.Machine

/-! ### Each row is one bus primitive, or a start command -/

theorem exec_fixedWriteRow {x : Instr × CommandId} (hx : x ∈ Statements.fixedWriteRows) (s : State) :
    exec x.1 s = busWrite (enc (s.params.code x.2)) s := by
  fin_cases hx <;> rfl

theorem exec_fixedReadRow {x : Instr × CommandId × Nat} (hx : x ∈ Statements.fixedReadRows) (s : State) :
    exec x.1 s = execRead (enc (s.params.code x.2.1)) x.2.2 s := by
  fin_cases hx <;> rfl

theorem ofStart_autoStartRow {x : Instr × Nat × LowPowerMode} (hx : x ∈ Statements.autoStartRows) :
    Instr.ofStart x.2.1 x.2.2 = some x.1 ∧ x.2.1 ≠ 0 := by
  have all : ∀ x ∈ Statements.autoStartRows, Instr.ofStart x.2.1 x.2.2 = some x.1 ∧ x.2.1 ≠ 0 := by decide
  exact all x hx

theorem ofStart_triggerRow {x : Instr × LowPowerMode} (hx : x ∈ Statements.triggerRows) :
    Instr.ofStart 0 x.2 = some x.1 := by
  have all : ∀ x ∈ Statements.triggerRows, Instr.ofStart 0 x.2 = some x.1 := by decide
  exact all x hx

theorem exec_autoStartRow {x : Instr × Nat × LowPowerMode} (hx : x ∈ Statements.autoStartRows) (s : State) :
    exec x.1 s = startCommand x.2.1 x.2.2 0 s := by
  obtain ⟨row, auto⟩ := ofStart_autoStartRow hx
  rw [exec_ofStart row, if_neg auto]

theorem exec_triggerRow {x : Instr × LowPowerMode} (hx : x ∈ Statements.triggerRows) (s : State) :
    exec x.1 s = triggerCommand x.2 s := by
  rw [exec_ofStart (ofStart_triggerRow hx), if_pos rfl]

/-- An auto-mode start row is the bus write of START(r, m) (R141). -/
theorem exec_autoStartRow_code {x : Instr × Nat × LowPowerMode} (hx : x ∈ Statements.autoStartRows) {s : State}
    {code : Word} (hc : s.params.start x.2.1 x.2.2 = some code) : exec x.1 s = busWrite (enc code) s := by
  rw [exec_autoStartRow hx, startCommand_some hc, transact_zero]

/-- A trigger row in AUTO_START is a bus write (R98). -/
theorem exec_triggerRow_autoStart {x : Instr × LowPowerMode} (hx : x ∈ Statements.triggerRows) {s : State}
    {code : Word} {k : Nat} {m : LowPowerMode} (hc : s.params.start 0 x.2 = some code)
    (ho : s.op = some (.autoStart k m)) : exec x.1 s = busWrite (enc code) s := by
  rw [exec_triggerRow hx, triggerCommand_autoStart ho, startCommand_some hc, transact_zero]

/-- A trigger row elsewhere is a combined transaction for two words (R142; log 10). -/
theorem exec_triggerRow_reads {x : Instr × LowPowerMode} (hx : x ∈ Statements.triggerRows) {s : State}
    {code : Word} (hc : s.params.start 0 x.2 = some code) (ho : ∀ k m, s.op ≠ some (.autoStart k m)) :
    exec x.1 s = execRead (enc code) 2 s := by
  rw [exec_triggerRow hx, triggerCommand_reads ho, startCommand_some hc, transact_read (.inr rfl)]

/-! ### The outcomes of a bus primitive, written out -/

/-- A bus write the transport accepts (R183). -/
theorem busWrite_accepted {f : List Byte} {s s' : State} {r : Vector Byte 6} (h : s.draw = some (.ok r, s')) :
    busWrite f s = .next { s' with
      trace := s.trace ++ [.write s.params.devAddr f (.ok [])]
      stepNo := s.stepNo + 1, phase := .ready, live := 0 } := by
  rw [busWrite_ok h]
  obtain ⟨as, rfl⟩ := State.draw_eq h
  rfl

/-- A bus write that fails (R183, R223). -/
theorem busWrite_failed {f : List Byte} {s s' : State} {c : TransportCause} (h : s.draw = some (.err c, s')) :
    busWrite f s = .next { s' with
      trace := s.trace ++ [.write s.params.devAddr f (.err c)]
      phase := .respond (.err (.transportFailure c)), live := 0 } := by
  rw [busWrite_err h]
  obtain ⟨as, rfl⟩ := State.draw_eq h
  rfl

/-- A combined transaction for 1 or 2 words that the transport answers (R181). -/
theorem execRead_answered {f : List Byte} {n : Nat} (hn : n = 1 ∨ n = 2) {s s' : State} {r : Vector Byte 6}
    (h : s.draw = some (.ok r, s')) :
    execRead f n s = .next { s' with
      trace := s.trace ++ [.writeRead s.params.devAddr f (3 * n) (.ok (r.toList.take (3 * n)))]
      buf := s.buf.writeBytes 0 (r.toList.take (3 * n))
      live := 3 * n, phase := .checkHi n 0 } := by
  rw [execRead_ok h, deliver_of_le _ _ (by simp only [bufSize]; omega)]
  obtain ⟨as, rfl⟩ := State.draw_eq h
  rfl

/-- A combined transaction that fails (R181). -/
theorem execRead_failed {f : List Byte} {n : Nat} {s s' : State} {c : TransportCause}
    (h : s.draw = some (.err c, s')) :
    execRead f n s = .next { s' with
      trace := s.trace ++ [.writeRead s.params.devAddr f (3 * n) (.err c)]
      live := 0, phase := .retryDelay n 0 } := by
  rw [execRead_err h]
  obtain ⟨as, rfl⟩ := State.draw_eq h
  rfl

theorem count_fixedReadRow {x : Instr × CommandId × Nat} (hx : x ∈ Statements.fixedReadRows) :
    x.2.2 = 1 ∨ x.2.2 = 2 := by
  have all : ∀ x ∈ Statements.fixedReadRows, x.2.2 = 1 ∨ x.2.2 = 2 := by decide
  exact all x hx

/-- All six bytes of an answer (R22). -/
theorem take_six (r : Vector Byte 6) : r.toList.take 6 = r.toList := List.take_of_length_le (by simp)

/-! ### Complete, failed and unanswered commands -/

/-- Settles O15: the row is its frame's bus write, accepted. -/
theorem fixedWriteCommandsComplete : Obligations.FixedWriteCommandsComplete := by
  intro x hx s r s' h
  rw [exec_fixedWriteRow hx, busWrite_accepted h]; rfl

/-- Settles O16: the row is the bus write of its rate's code, accepted. -/
theorem autoStartCommandsComplete : Obligations.AutoStartCommandsComplete := by
  intro x hx s code r s' hc h
  rw [exec_autoStartRow_code hx hc, busWrite_accepted h]; rfl

/-- Settles O17: a combined transaction of six bytes, or in AUTO_START a bus write. -/
theorem triggerCommandsCompleteByTheirUse : Obligations.TriggerCommandsCompleteByTheirUse := by
  intro x hx s code r s' hc h
  refine ⟨fun ho => ?_, fun k m ho => ?_⟩
  · rw [exec_triggerRow_reads hx hc ho, execRead_answered (.inr rfl) h, take_six]; rfl
  · rw [exec_triggerRow_autoStart hx hc ho, busWrite_accepted h]; rfl

/-- Settles O18: the row is a combined transaction for its word count, answered. -/
theorem readCommandsComplete : Obligations.ReadCommandsComplete := by
  intro x hx s r s' h
  rw [exec_fixedReadRow hx, execRead_answered (count_fixedReadRow hx) h]; rfl

/-- Settles O20: each row is a bus write, and a failed bus write raises TransportFailure. -/
theorem failedWritesRaiseTransportFailure : Obligations.FailedWritesRaiseTransportFailure := by
  intro s c s' h
  refine ⟨fun x hx => ?_, fun x hx code hc => ?_, fun x hx code k m hc ho => ?_, fun setting => ?_⟩
  · rw [exec_fixedWriteRow hx]; exact busWrite_failed h
  · rw [exec_autoStartRow_code hx hc]; exact busWrite_failed h
  · rw [exec_triggerRow_autoStart hx hc ho]; exact busWrite_failed h
  · rw [exec_heaterCfg]; exact busWrite_failed h

/-- Settles O21: each row is a combined transaction, whose failure begins the retry loop. -/
theorem failedReadsFallBackToBareReads : Obligations.FailedReadsFallBackToBareReads := by
  intro s c s' h
  refine ⟨fun x hx => ?_, fun x hx code hc ho => ?_⟩
  · rw [exec_fixedReadRow hx]; exact execRead_failed h
  · rw [exec_triggerRow_reads hx hc ho]; exact execRead_failed h

/-- Settles O22: the three cases of the draw by their lemmas. -/
theorem drawIsTheTransportsNextAnswer : Obligations.DrawIsTheTransportsNextAnswer :=
  fun _ => ⟨fun _ _ => State.draw_cons, fun _ => State.draw_failing, State.draw_silent⟩

/-- Settles O23: every row is a bus write or a combined transaction, and these and the bare read wait. -/
theorem blockWaitsForASilentTransport : Obligations.BlockWaitsForASilentTransport := by
  intro s h
  refine ⟨fun x hx => ?_, fun x hx => ?_, fun setting => ?_, fun x hx code hc => ?_, fun x hx code hc => ?_,
    fun n a hb hw hp => ?_⟩
  · rw [exec_fixedWriteRow hx, busWrite_waits h]
  · rw [exec_fixedReadRow hx, execRead_waits h]
  · rw [exec_heaterCfg, busWrite_waits h]
  · rw [exec_autoStartRow_code hx hc, busWrite_waits h]
  · by_cases ho : ∃ k m, s.op = some (.autoStart k m)
    · obtain ⟨k, m, ho⟩ := ho
      rw [exec_triggerRow_autoStart hx hc ho, busWrite_waits h]
    · rw [exec_triggerRow_reads hx hc (fun k m e => ho ⟨k, m, e⟩), execRead_waits h]
  · rw [step_waiting hb hw, blockStep_retryRead hb hp, retryRead_waits h]

/-! ### Frames -/

/-- What no bus primitive changes: the registers but STEP, and what the caller and the construction gave. -/
structure PrimitiveFrame (s t : State) : Prop where
  acc        : t.acc = s.acc
  words      : t.words = s.words
  op         : t.op = s.op
  busy       : t.busy = s.busy
  result     : t.result = s.result
  faults     : t.faults = s.faults
  params     : t.params = s.params
  caller     : t.caller = s.caller
  thereafter : t.thereafter = s.thereafter

/-- A bus write leaves BUF as well. -/
theorem busWrite_frame {f : List Byte} {s t : State} (h : busWrite f s = .next t) :
    PrimitiveFrame s t ∧ t.buf = s.buf := by
  rcases busWrite_cases f s with e | ⟨as, e⟩ | ⟨as, c, e⟩ <;> rw [e] at h <;> cases h <;>
    exact ⟨⟨rfl, rfl, rfl, rfl, rfl, rfl, rfl, rfl, rfl⟩, rfl⟩

/-- A combined transaction leaves STEP, and BUF above the bytes it reads. -/
theorem execRead_frame {f : List Byte} {n : Nat} {s t : State} (h : execRead f n s = .next t) :
    PrimitiveFrame s t ∧ t.stepNo = s.stepNo ∧ ∀ a, 3 * n ≤ a → t.buf.read a = s.buf.read a := by
  rcases execRead_cases f n s with e | ⟨as, r, e⟩ | ⟨as, c, e⟩ <;> rw [e] at h
  · cases h; exact ⟨⟨rfl, rfl, rfl, rfl, rfl, rfl, rfl, rfl, rfl⟩, rfl, fun _ _ => rfl⟩
  · rcases deliver_cases n _ _ with e | ⟨-, e⟩ <;> rw [e] at h <;> cases h
    refine ⟨⟨rfl, rfl, rfl, rfl, rfl, rfl, rfl, rfl, rfl⟩, rfl, fun a ha => ?_⟩
    exact Memory.read_writeBytes_outside _ s.buf 0 a (.inr (by rw [List.length_take]; omega))
  · cases h; exact ⟨⟨rfl, rfl, rfl, rfl, rfl, rfl, rfl, rfl, rfl⟩, rfl, fun _ _ => rfl⟩

/-- A start command of word count n that is not refused is the transactor's (R141). -/
theorem startCommand_next {r n : Nat} {m : LowPowerMode} {s t : State} (h : startCommand r m n s = .next t) :
    ∃ code, transact (enc code) n s = .next t := by
  cases hc : s.params.start r m with
  | some code => rw [startCommand_some hc] at h; exact ⟨code, h⟩
  | none => unfold startCommand at h; rw [hc] at h; cases h

/-- A row that only writes is a bus write, where it is not refused. -/
theorem exec_writesOnly {i : Instr} {s t : State} (hi : Statements.WritesOnly i) (h : exec i s = .next t) :
    ∃ f, busWrite f s = .next t := by
  rcases hi with ⟨id, hx⟩ | ⟨r, m, hx⟩ | ⟨setting, rfl⟩
  · exact ⟨_, (exec_fixedWriteRow hx s).symm.trans h⟩
  · obtain ⟨code, e⟩ := startCommand_next ((exec_autoStartRow hx s).symm.trans h)
    exact ⟨_, e⟩
  · exact ⟨_, h⟩

/-- Settles O24: a row that only writes is a bus write. -/
theorem writeCommandsFrame : Obligations.WriteCommandsFrame := by
  intro i s t hi h
  obtain ⟨f, e⟩ := exec_writesOnly hi h
  obtain ⟨⟨acc, words, op, busy, result, faults, params, caller, thereafter⟩, buf⟩ := busWrite_frame e
  exact ⟨fun a => by rw [buf], acc, words, op, busy, result, faults, params, caller, thereafter⟩

/-- Settles O25: a read row is a combined transaction for its word count. -/
theorem readCommandsFrame : Obligations.ReadCommandsFrame := by
  intro x s t hx h
  rw [exec_fixedReadRow hx] at h
  obtain ⟨⟨acc, words, op, busy, result, faults, params, caller, thereafter⟩, stepNo, buf⟩ := execRead_frame h
  exact ⟨buf, acc, words, op, stepNo, busy, result, faults, params, caller, thereafter⟩

/-- Settles O26: a trigger row is a bus write in AUTO_START and elsewhere a combined transaction for two words. -/
theorem triggerCommandsFrame : Obligations.TriggerCommandsFrame := by
  intro x s t hx h
  rw [exec_triggerRow hx] at h
  by_cases ho : ∃ k m, s.op = some (.autoStart k m)
  · have writes := ho
    obtain ⟨k, m, ho⟩ := ho
    rw [triggerCommand_autoStart ho] at h
    obtain ⟨code, e⟩ := startCommand_next h
    obtain ⟨⟨acc, words, op, busy, result, faults, params, caller, thereafter⟩, buf⟩ := busWrite_frame e
    exact ⟨fun a _ => by rw [buf], acc, words, op, fun other => absurd ho (other k m), busy, result, faults, params,
      caller, thereafter⟩
  · rw [triggerCommand_reads fun k m e => ho ⟨k, m, e⟩] at h
    obtain ⟨code, e⟩ := startCommand_next h
    obtain ⟨⟨acc, words, op, busy, result, faults, params, caller, thereafter⟩, stepNo, buf⟩ := execRead_frame e
    exact ⟨fun a ha => buf a (ha.resolve_right ho), acc, words, op, fun _ => stepNo, busy, result, faults, params,
      caller, thereafter⟩

/-! ### Operands the instantiation does not have -/

theorem Params.start_of_ge {p : Params} {r : Nat} (m : LowPowerMode) (h : p.starts.length ≤ r) :
    p.start r m = none := by
  simp only [Params.start, List.getElem?_eq_none h]

theorem startCommand_none {r n : Nat} {m : LowPowerMode} {s : State} (h : s.params.starts.length ≤ r) :
    startCommand r m n s = .refused .noSuchOperand := by
  unfold startCommand; rw [Params.start_of_ge m h]

theorem present_refused {op : Op} {s : State} (h : op.wf s.params = false) :
    present op s = .refused .noSuchOperand := by
  unfold present; rw [h]; rfl

/-- Settles O27: START has no code for such a rate, and such a request is not well-typed. -/
theorem operandsOutsideTheirTypesAreRefused : Obligations.OperandsOutsideTheirTypesAreRefused := by
  refine ⟨fun x hx s noRates => ?_, fun x hx s h => ?_, fun s m k => ⟨fun h => ?_, fun h => ?_⟩⟩
  · have noRates : s.params.starts.length ≤ 0 := by rw [noRates, List.length_nil]
    rw [exec_triggerRow hx]
    unfold triggerCommand
    split <;> exact startCommand_none noRates
  · rw [exec_autoStartRow hx, startCommand_none h]
  · exact present_refused (decide_eq_false (Nat.not_lt.mpr h))
  · exact present_refused (decide_eq_false (Nat.not_le.mpr h))

/-! ### Requests -/

/-- Settles O28: each row presents its request, and an idle block accepts a well-typed one. -/
theorem idleBlockAcceptsEveryRequest : Obligations.IdleBlockAcceptsEveryRequest := by
  intro s hb
  have accepts {i : Instr} {op : Op} (hi : i.opOf = some op) (hw : op.wf s.params = true) :
      exec i s =
        .next { s with op := some op, stepNo := 0, words := [], busy := true, phase := .ready, live := 0 } := by
    rw [exec_request hi, present_idle hw hb]; rfl
  exact ⟨fun m => accepts rfl rfl, fun r m hr => accepts rfl (decide_eq_true hr), accepts rfl rfl,
    fun t => accepts rfl rfl, fun l hl => accepts rfl (decide_eq_true hl), fun c => accepts rfl rfl, accepts rfl rfl,
    accepts rfl rfl, accepts rfl rfl, fun cmd n => accepts rfl rfl, fun b0 b1 => accepts rfl rfl⟩

/-- Settles O30: acceptance changes the sequencing registers alone, and a reentrant request FAULT alone, in a busy
block. -/
theorem requestsFrame : Obligations.RequestsFrame := by
  intro i op s t hi h
  rw [exec_request hi] at h
  rcases present_next h with ⟨-, rfl⟩ | ⟨hb, rfl⟩
  · exact ⟨fun _ => rfl, rfl, rfl, rfl, rfl, rfl, rfl, rfl, rfl, rfl⟩
  · exact ⟨fun _ => rfl, rfl, rfl, rfl, rfl, rfl, rfl, rfl, rfl, hb⟩

end Sys2Proof.Machine

/-! The step and the sequences (10_state.md section 2, 43_operations.md sections 1 to 3): what one step runs, and whole
operations of a waiting caller's block. -/

namespace Sys2Proof.Machine

/-! ### What one step runs -/

theorem step_nil {s : State} (h : s.caller = []) : step s = blockStep s := by
  rw [step, fetch_nil h]; rfl

theorem step_hold {s : State} {rest : List CallerMove} (h : s.caller = .hold :: rest) :
    step s = blockStep { s with caller := rest } := by
  rw [step, fetch_hold h]; rfl

theorem step_barge {s : State} {op : Op} {rest : List CallerMove} (h : s.caller = .barge op :: rest) :
    step s = exec op.instr { s with caller := rest } := by
  rw [step, fetch_barge h]

theorem step_request {s : State} {op : Op} {rest : List CallerMove} (h : s.caller = .request op :: rest)
    (hb : s.busy = false) : step s = exec op.instr { s with caller := rest } := by
  rw [step, fetch_request h hb]

theorem Move.caller_eq {s t : State} (m : Move s t) : t.caller = s.caller := by cases m <;> rfl

/-- Settles O32: the two kinds of request by the fetch; a busy block's own moves leave the caller's. -/
theorem stepTakesTheCallersRequest : Obligations.StepTakesTheCallersRequest := by
  refine ⟨fun s op rest => step_request, fun s op rest => step_barge, fun s t hb hw h => ?_⟩
  rw [step_waiting hb hw] at h
  exact (blockStep_move h).caller_eq

/-- Settles O33: with no move of the caller's the step is the idle block's own. -/
theorem idleBlockWaits : Obligations.IdleBlockWaits := by
  intro s hb hc
  rw [step_nil hc, blockStep_idle hb]

/-- The beginning of a step that has a row runs the row. -/
theorem blockStep_row {s : State} {op : Op} {i : Instr} (hb : s.busy = true) (hp : s.phase = .ready)
    (ho : s.op = some op) (ha : action s.params op s.stepNo = .run i) : blockStep s = exec i s := by
  rw [blockStep_ready hb hp ho, ha]

/-- The place of a command row has that row, with the configuration's setting in the parameters. -/
theorem action_placeOf {i : Instr} {op : Op} {k : Nat} {p : Params} (h : placeOf i = some (op, k))
    (setting : ∀ w, i = .heaterCfg w → p.setting 1 = some w) : action p op k = .run i := by
  cases i <;> simp only [placeOf, Option.some.injEq, Prod.mk.injEq, reduceCtorEq] at h <;> obtain ⟨rfl, rfl⟩ := h
  case heaterCfg w => simp only [action, configAction, setting w rfl]
  all_goals rfl

/-- A step from a row's place runs the row, at the beginning of that step of the operation. -/
theorem step_atCommand {s : State} {i : Instr} {op : Op} {k : Nat} (ha : action s.params op k = .run i) :
    step (s.atCommand op k) = exec i { s.atCommand op k with caller := s.caller } := by
  cases hc : s.caller with
  | nil =>
    have none : (s.atCommand op k).caller = [] := by simp only [State.atCommand, hc]
    rw [step_nil none, blockStep_row rfl rfl rfl ha, ← none]
  | cons c rest =>
    have hold : (s.atCommand op k).caller = .hold :: c :: rest := by simp only [State.atCommand, hc]
    rw [step_hold hold, blockStep_row rfl rfl rfl ha]

/-- A command row is placed at its place, its setting among the parameters (log 15). -/
theorem withInstr_command {s : State} {i : Instr} {op : Op} {k : Nat} (hi : i.opOf = none)
    (hp : placeOf i = some (op, k)) :
    ∃ p : Params, s.withInstr i = State.atCommand { s with params := p } op k ∧
      ∀ w, i = .heaterCfg w → p.setting 1 = some w := by
  unfold State.withInstr
  rw [hi]
  simp only [hp]
  split
  · rename_i setting
    exact ⟨Params.withSetting s.params setting, rfl, fun w e => by cases e; rfl⟩
  · rename_i other
    exact ⟨s.params, rfl, fun w e => absurd e (other w)⟩

theorem placeOf_command {i : Instr} (h : i.opOf = none) : ∃ op k, placeOf i = some (op, k) := by
  cases i <;> simp only [Instr.opOf, reduceCtorEq] at h <;> exact ⟨_, _, rfl⟩

/-- Settles O31: a request is presented at once; a command row is run from its place. -/
theorem stepRunsTheDecodedInstruction : Obligations.StepRunsTheDecodedInstruction := by
  intro s nbits w i hd
  have placed : s.withFetchWord nbits w = s.withInstr i := by simp only [State.withFetchWord, hd]
  rw [placed]
  refine ⟨fun op hi => ?_, fun hi => ?_⟩
  · have barge : s.withInstr i = { s with caller := .barge op :: s.caller } := by simp only [State.withInstr, hi]
    rw [barge, step_barge rfl, Instr.instr_of_opOf hi]
  · obtain ⟨op, k, hp⟩ := placeOf_command hi
    obtain ⟨p, e, setting⟩ := withInstr_command (s := s) hi hp
    rw [e]
    exact ⟨op, k, _, hp, step_atCommand (action_placeOf hp setting), rfl, rfl, rfl, rfl, rfl, rfl, rfl, rfl, rfl, rfl,
      rfl⟩

/-- A waiting caller's busy block runs the row of its step. -/
theorem step_row {s : State} {op : Op} {k : Nat} {i : Instr} (hb : s.busy = true) (hw : Waiting s.caller)
    (hp : s.phase = .ready) (ho : s.op = some op) (hk : s.stepNo = k) (ha : action s.params op k = .run i) :
    step s = exec i s := by
  subst hk
  rw [step_waiting hb hw, blockStep_row hb hp ho ha]

/-- The start action of a rate that has a row is that row. -/
theorem startAction_row {r : Nat} {m : LowPowerMode} {i : Instr} (h : Instr.ofStart r m = some i) :
    startAction r m = .run i := by
  simp only [startAction, h]

/-- Step 1 of HEATER at a non-off level is the configuration with the level's setting (R192). -/
theorem action_heater_config {p : Params} {l : Nat} {setting : Word} (h : p.heaterSetting[l]? = some setting) :
    action p (.heater (l + 1)) 1 = .run (.heaterCfg setting) := by
  simp only [action, configAction, Params.setting, h]

/-- Settles O34: each clause is the row of that action of the operation's sequence. -/
theorem opAndStepSelectTheCommand : Obligations.OpAndStepSelectTheCommand := by
  intro s hb hp hw
  have runs {op : Op} {k : Nat} {i : Instr} (ha : action s.params op k = .run i) (ho : s.op = some op)
      (hk : s.stepNo = k) : step s = exec i s := step_row hb hw hp ho hk ha
  exact ⟨fun m row hx => runs (startAction_row (ofStart_triggerRow hx)),
    fun r m row hx => runs (startAction_row (ofStart_autoStartRow hx).1),
    fun m row hx => runs (startAction_row (ofStart_triggerRow hx)),
    runs rfl, runs rfl, runs rfl, runs rfl, runs rfl, runs rfl, fun l => runs rfl,
    fun l setting ho hs => runs (action_heater_config hs) ho, fun l => runs rfl, fun c => runs rfl, runs rfl, runs rfl,
    runs rfl, runs rfl, runs rfl, runs rfl⟩

/-! ### EXEC and START without a row -/

/-- The first step of EXEC is the transactor's (R187). -/
theorem step_exec {s : State} {cmd : Word} {n : Nat} (hb : s.busy = true) (hw : Waiting s.caller)
    (hp : s.phase = .ready) (ho : s.op = some (.exec cmd n)) (hk : s.stepNo = 0) : step s = transact (enc cmd) n s := by
  rw [step_waiting hb hw, blockStep_ready hb hp ho, hk]; rfl

/-- Settles O35: the transactor's three branches, each with the outcomes of its primitive. -/
theorem directRequestGoesThroughTheTransactor : Obligations.DirectRequestGoesThroughTheTransactor := by
  intro s cmd n hb hp hw ho hk
  have e : step s = transact (enc cmd) n s := step_exec hb hw hp ho hk
  refine ⟨fun h2 => ?_, fun r s' h0 h => ?_, fun c s' h0 h => ?_, fun r s' hn h => ?_, fun c s' hn h => ?_⟩
  · rw [e, transact_invalid h2]; rfl
  · rw [e, h0, transact_zero, busWrite_accepted h, hk]; rfl
  · rw [e, h0, transact_zero, busWrite_failed h]; rfl
  · rw [e, transact_read hn, execRead_answered hn h]; rfl
  · rw [e, transact_read hn, execRead_failed h]; rfl

/-- AUTO_START at a rate without a row is the bus write of START(r, m) (R189; log 18). -/
theorem step_start_without_row {s : State} {k : Nat} {m : LowPowerMode} {code : Word} (hb : s.busy = true)
    (hw : Waiting s.caller) (hp : s.phase = .ready) (ho : s.op = some (.autoStart k m)) (hk : s.stepNo = 0)
    (noRow : Instr.ofStart k m = none) (hc : s.params.start k m = some code) : step s = busWrite (enc code) s := by
  have ha : action s.params (.autoStart k m) 0 = .start k m := by simp only [action, startAction, noRow]
  rw [step_waiting hb hw, blockStep_ready hb hp ho, hk, ha]
  exact (startCommand_some hc).trans (transact_zero _ s)

/-- Settles O60: the three outcomes of that bus write. -/
theorem startsWithoutARowAreWritten : Obligations.StartsWithoutARowAreWritten := by
  intro s k m code hb hp hw ho hk noRow hc
  have e : step s = busWrite (enc code) s := step_start_without_row hb hw hp ho hk noRow hc
  refine ⟨fun r s' h => ?_, fun c s' h => ?_, fun h => ?_⟩
  · rw [e, busWrite_accepted h, hk]; rfl
  · rw [e, busWrite_failed h]; rfl
  · rw [e, busWrite_waits h]

/-! ### Inside a step -/

/-- A bare read that is answered delivers as a combined transaction would (R182). -/
theorem retryRead_answered {n a : Nat} (hn : n = 1 ∨ n = 2) {s s' : State} {r : Vector Byte 6}
    (h : s.draw = some (.ok r, s')) :
    retryRead n a s = .next { s' with
      trace := s.trace ++ [.read s.params.devAddr (3 * n) (.ok (r.toList.take (3 * n)))]
      buf := s.buf.writeBytes 0 (r.toList.take (3 * n))
      live := 3 * n, phase := .checkHi n 0 } := by
  rw [retryRead_ok h, deliver_of_le _ _ (by simp only [bufSize]; omega)]
  obtain ⟨as, rfl⟩ := State.draw_eq h
  rfl

/-- A failed bare read that the policy lets go round again (R182). -/
theorem retryRead_again {n a : Nat} {s s' : State} {c : TransportCause} (h : s.draw = some (.err c, s'))
    (hk : s.params.retry ≠ .bounded (a + 1)) :
    retryRead n a s = .next { s' with
      trace := s.trace ++ [.read s.params.devAddr (3 * n) (.err c)], phase := .retryDelay n (a + 1) } := by
  rw [retryRead_err h]
  obtain ⟨as, rfl⟩ := State.draw_eq h
  rcases retryFailed_cases n a c
    (State.record { s with answers := as } (.read s.params.devAddr (3 * n) (.err c))) with ⟨e, -⟩ | ⟨-, e⟩
  · rw [e]; rfl
  · exact absurd e hk

/-- A failed bare read that is the last the policy allows (R182, R221). -/
theorem retryRead_exhausted {n a : Nat} {s s' : State} {c : TransportCause} (h : s.draw = some (.err c, s'))
    (hk : s.params.retry = .bounded (a + 1)) :
    retryRead n a s = .next { s' with
      trace := s.trace ++ [.read s.params.devAddr (3 * n) (.err c)]
      phase := .respond (.err (.retriesExhausted c)), live := 0 } := by
  rw [retryRead_err h]
  obtain ⟨as, rfl⟩ := State.draw_eq h
  rcases retryFailed_cases n a c
    (State.record { s with answers := as } (.read s.params.devAddr (3 * n) (.err c))) with ⟨-, e⟩ | ⟨e, -⟩
  · exact absurd hk e
  · rw [e]; rfl

/-- Settles O36: the delay, and the three outcomes of the bare read. -/
theorem retryLoopStepByStep : Obligations.RetryLoopStepByStep := by
  intro s n a hb hw hn
  refine ⟨fun hp => ?_, fun hp r s' h => ?_, fun hp c s' h => ⟨fun hu => ?_, fun k hk ne => ?_, fun hk => ?_⟩⟩
  · rw [step_waiting hb hw, blockStep_retryDelay hb hp]; rfl
  all_goals rw [step_waiting hb hw, blockStep_retryRead hb hp]
  · exact retryRead_answered hn h
  · exact (retryRead_again h (by rw [hu]; exact RetryPolicy.noConfusion)).trans rfl
  · exact (retryRead_again h (by rw [hk]; exact fun e => ne (RetryPolicy.bounded.inj e).symm)).trans rfl
  · exact (retryRead_exhausted h hk).trans rfl

/-- Settles O37: each position whose read finds no value adds the reason and stays. -/
theorem unwrittenReadJoinsFault : Obligations.UnwrittenReadJoinsFault := by
  intro s hb hw
  refine ⟨fun n i a hp hi h1 h2 hu => ?_, fun n i hp hi ha => ?_, fun b1 hp ha => ?_⟩
  · obtain ⟨hi', lo'⟩ := check_unwritten (n := n) (s.wordBytes_unwritten hi h1 h2 hu)
    rcases hp with hp | hp
    · rw [step_waiting hb hw, blockStep_checkHi hb hp, hi']; rfl
    · rw [step_waiting hb hw, blockStep_checkLo hb hp, lo']; rfl
  · rw [step_waiting hb hw, blockStep_checkLo hb hp, checkLo_acc_unwritten hi ha]; rfl
  · rw [step_waiting hb hw, blockStep_sumLo hb hp, sumLo, accStep_none _ _ ha]; rfl

/-! ### The end of an operation -/

/-- Settles O39: a decided response is emitted. -/
theorem emissionEndsTheOperation : Obligations.EmissionEndsTheOperation :=
  fun _ _ hb hw hp => step_responds hb hw hp

/-- Settles O40: past its last step each operation finishes, with the value its words give. -/
theorem finishedOperationAnswersItsValue : Obligations.FinishedOperationAnswersItsValue := by
  intro s hb hp hw
  have ends {op : Op} {k : Nat} {v : Value} {ws : List Word} (ha : action s.params op k = .finish)
      (hv : successValue op ws = some v) (ho : s.op = some op) (hk : s.stepNo = k) (hws : s.words = ws) :
      step s = .next { s with result := some (.ok v), busy := false, op := none, stepNo := 0, phase := .ready } :=
    step_finishes hb hw hp ho hk ha (hws.symm ▸ hv)
  exact ⟨fun m t rh => ends rfl rfl, fun t rh => ends rfl rfl, fun w => ends rfl rfl, fun w => ends rfl rfl,
    fun w => ends rfl rfl, fun w => ends rfl rfl, fun r m ho hk => ends rfl rfl ho hk rfl,
    fun ho hk => ends rfl rfl ho hk rfl, fun ho hk => ends rfl rfl ho hk rfl, fun ho hk => ends rfl rfl ho hk rfl,
    fun l ho hk => ends rfl rfl ho hk rfl, fun w => ends rfl rfl, fun w => ends rfl rfl, fun w0 w1 w2 => ends rfl rfl,
    fun w => ends rfl rfl, fun cmd n ho hk => ends rfl rfl ho hk rfl⟩

/-! ### Whole operations -/

/-- The first accumulate of a CHECKSUM request (R115). -/
theorem step_sumHi {s : State} {b0 b1 : Byte} (hb : s.busy = true) (hw : Waiting s.caller) (hp : s.phase = .ready)
    (ho : s.op = some (.checksum b0 b1)) (hk : s.stepNo = 0) :
    step s = .next ((s.setAcc (fold crcInit b0)).goto (.sumLo b1)) := by
  rw [step_waiting hb hw, blockStep_ready hb hp ho, hk]; rfl

/-- Its second accumulate, which decides the response (R187). -/
theorem step_sumLo {s : State} {b1 a : Byte} (hb : s.busy = true) (hw : Waiting s.caller) (hp : s.phase = .sumLo b1)
    (ha : s.acc = some a) :
    step s = .next ((s.setAcc (fold a b1)).stepDone.goto (.respond (.ok (.check (fold a b1))))) := by
  rw [step_waiting hb hw, blockStep_sumLo hb hp, sumLo, accStep_some _ _ ha, checksumOut_eq]

/-- A run is its first step and the run after it. -/
theorem run_step {s t : State} {k : Nat} {o : Out} (h : step s = .next t) (later : run k t = o) : run (k + 1) s = o :=
  (run_succ h k).trans later

/-- Settles O41: acceptance, the two accumulates, and the emission of the checksum. -/
theorem checksumRequestAnswersTheChecksum : Obligations.ChecksumRequestAnswersTheChecksum := by
  intro s b0 b1 rest hb hw hc
  refine run_step (step_accepts hb hc rfl) ?_
  refine run_step (step_sumHi rfl hw rfl rfl rfl) ?_
  refine run_step (step_sumLo rfl hw rfl rfl) ?_
  exact run_step (step_responds rfl hw rfl) rfl

/-- A waiting caller's busy block at a step whose row is a bus write of `f`. -/
structure AtWrite (s : State) (f : List Byte) : Prop where
  busy    : s.busy = true
  waiting : Waiting s.caller
  step    : step s = busWrite f s

theorem atWrite {s : State} {op : Op} {i : Instr} {f : List Byte} (hb : s.busy = true) (hw : Waiting s.caller)
    (hp : s.phase = .ready) (ho : s.op = some op) (ha : action s.params op s.stepNo = .run i)
    (he : exec i s = busWrite f s) : AtWrite s f :=
  ⟨hb, hw, (step_row hb hw hp ho rfl ha).trans he⟩

/-- A write the transport accepts takes one step. -/
theorem AtWrite.run_accepted {s s' : State} {f : List Byte} {r : Vector Byte 6} {k : Nat} {o : Out} (h : AtWrite s f)
    (hd : s.draw = some (.ok r, s'))
    (later : run k { s' with
      trace := s.trace ++ [.write s.params.devAddr f (.ok [])]
      stepNo := s.stepNo + 1, phase := .ready, live := 0 } = o) : run (k + 1) s = o :=
  run_step (h.step.trans (busWrite_accepted hd)) later

/-- A write that fails ends the operation in two steps, with TransportFailure (R183, R223). -/
theorem AtWrite.run_failed {s s' : State} {f : List Byte} {c : TransportCause} (h : AtWrite s f)
    (hd : s.draw = some (.err c, s')) :
    run 2 s = .next { s' with
      trace := s.trace ++ [.write s.params.devAddr f (.err c)]
      result := some (.err (.transportFailure c))
      op := none, stepNo := 0, busy := false, phase := .ready, live := 0 } := by
  refine run_step (h.step.trans (busWrite_failed hd)) ?_
  obtain ⟨as, rfl⟩ := State.draw_eq hd
  exact run_step (step_responds h.busy h.waiting rfl) rfl

theorem wf_heater {p : Params} {l : Nat} {setting : Word} (h : p.heaterSetting[l]? = some setting) :
    Op.wf p (.heater (l + 1)) = true :=
  decide_eq_true (List.getElem?_eq_some_iff.mp h).1

theorem wf_heater_off (p : Params) : Op.wf p (.heater 0) = true :=
  decide_eq_true (Nat.zero_le p.heaterSetting.length)

/-- Settles O42: acceptance, one or three accepted writes, and the end of the sequence. -/
theorem heaterSendsItsFramesInOrder : Obligations.HeaterSendsItsFramesInOrder := by
  refine ⟨?off, ?level⟩
  case off =>
    intro s r ds rest hb hw hc hd
    refine run_step (step_accepts hb hc (wf_heater_off _)) ?_
    refine AtWrite.run_accepted (atWrite rfl hw rfl rfl rfl rfl) (State.draw_cons hd) ?_
    exact run_step (step_finishes rfl hw rfl rfl rfl rfl rfl) rfl
  case level =>
    intro s l setting r0 r1 r2 ds rest hb hw hs hc hd
    refine run_step (step_accepts hb hc (wf_heater hs)) ?_
    refine AtWrite.run_accepted (atWrite rfl hw rfl rfl rfl rfl) (State.draw_cons hd) ?_
    refine AtWrite.run_accepted (atWrite rfl hw rfl rfl (action_heater_config hs) rfl) (State.draw_cons rfl) ?_
    refine AtWrite.run_accepted (atWrite rfl hw rfl rfl rfl rfl) (State.draw_cons rfl) ?_
    refine run_step (step_finishes rfl hw rfl rfl rfl rfl rfl) ?_
    simp [State.emit, State.accept, enc]

/-- A transport that fails next, from any state with those answers left. -/
theorem draw_failsNext {s t : State} {more left : List Draw} {c : TransportCause}
    (h : Statements.FailsNext s more c left) (ha : t.answers = more) (ht : t.thereafter = s.thereafter) :
    t.draw = some (.err c, { t with answers := left }) := by
  rcases h with rfl | ⟨rfl, rfl, hc⟩
  · exact State.draw_cons ha
  · rw [State.draw_failing ha (ht.trans hc), ← ha]

/-- Settles O43: the writes before the failure are accepted one by one, and a failed write ends the operation. -/
theorem heaterFailureLeavesSentFrames : Obligations.HeaterFailureLeavesSentFrames := by
  intro s l setting c hs
  refine ⟨fun rest hb hw hc => ⟨fun r0 more left hd hf => ?_, fun r0 r1 more left hd hf => ?_⟩,
    fun s' hb hp hw ho hd => ⟨fun hk => ?_, fun hk => ?_⟩⟩
  · refine run_step (step_accepts hb hc (wf_heater hs)) ?_
    refine AtWrite.run_accepted (atWrite rfl hw rfl rfl rfl rfl) (State.draw_cons hd) ?_
    have configure := action_heater_config hs
    refine Eq.trans (AtWrite.run_failed (atWrite rfl hw rfl rfl configure rfl) (draw_failsNext hf rfl rfl)) ?_
    simp [State.accept, enc]
  · refine run_step (step_accepts hb hc (wf_heater hs)) ?_
    refine AtWrite.run_accepted (atWrite rfl hw rfl rfl rfl rfl) (State.draw_cons hd) ?_
    refine AtWrite.run_accepted (atWrite rfl hw rfl rfl (action_heater_config hs) rfl) (State.draw_cons rfl) ?_
    refine Eq.trans (AtWrite.run_failed (atWrite rfl hw rfl rfl rfl rfl) (draw_failsNext hf rfl rfl)) ?_
    simp [State.accept, enc]
  · exact AtWrite.run_failed (atWrite hb hw hp ho (by rw [hk]; exact action_heater_config hs) rfl) hd
  · exact AtWrite.run_failed (atWrite (i := .heaterEn) hb hw hp ho (by rw [hk]; rfl) rfl) hd

/-- Settles O44: the clear is a bus write, and a failed bus write ends the operation with its error. -/
theorem failedStatusClearReturnsTheErrorAlone : Obligations.FailedStatusClearReturnsTheErrorAlone := by
  intro s c s' hb hp hw ho hk hd
  exact AtWrite.run_failed (atWrite (i := .statusClear) hb hw hp ho (by rw [hk]; rfl) rfl) hd

/-- Settles O45: acceptance, the one write, and the emission of its outcome. -/
theorem softResetLeavesTheBlockAlone : Obligations.SoftResetLeavesTheBlockAlone := by
  intro s s' rest hb hw hc
  refine ⟨fun r hd => ?_, fun c hd => ?_⟩
  all_goals refine run_step (step_accepts hb hc rfl) ?_
  · refine AtWrite.run_accepted (atWrite rfl hw rfl rfl rfl rfl) (State.draw_congr hd rfl rfl) ?_
    obtain ⟨as, rfl⟩ := State.draw_eq hd
    exact run_step (step_finishes rfl hw rfl rfl rfl rfl rfl) rfl
  · refine Eq.trans (AtWrite.run_failed (atWrite rfl hw rfl rfl rfl rfl) (State.draw_congr hd rfl rfl)) ?_
    obtain ⟨as, rfl⟩ := State.draw_eq hd
    rfl

end Sys2Proof.Machine

/-! Validation and the retry loop as wholes (41_checksum.md section 3, 43_operations.md section 1). -/

namespace Sys2Proof.Machine

/-! ### The two steps that check a word -/

section
variable {s : State} {n i : Nat} {h l c : Byte}

/-- The two steps, with what the second answers (R115, R118, R120). -/
theorem run_check {o : Out} {k : Nat} {t : State} (hb : s.busy = true) (hw : Waiting s.caller)
    (hp : s.phase = .checkHi n i) (word : s.wordBytes i = .value (h, l, c))
    (second : checkLo n i ((s.setAcc (fold crcInit h)).goto (.checkLo n i)) = .next t) (later : run k t = o) :
    run (k + 2) s = o := by
  have first : step s = .next ((s.setAcc (fold crcInit h)).goto (.checkLo n i)) := by
    rw [step_waiting hb hw, blockStep_checkHi hb hp, checkHi_value word]
  have second' : step ((s.setAcc (fold crcInit h)).goto (.checkLo n i)) = .next t := by
    rw [step_waiting (by exact hb) (by exact hw), blockStep_checkLo (by exact hb) rfl, second]
  exact run_step first (run_step second' later)

/-- What the second step answers, with ACC at the first accumulate. -/
theorem checkLo_halfway (word : s.wordBytes i = .value (h, l, c)) :
    checkLo n i ((s.setAcc (fold crcInit h)).goto (.checkLo n i)) =
      if c = checksum h l then
        if i + 1 < n then .next ((s.setAcc (fold (fold crcInit h) l)).goto (.checkHi n (i + 1)))
        else appendValidated n ((s.setAcc (fold (fold crcInit h) l)).goto (.checkLo n i))
      else .next ((s.setAcc (fold (fold crcInit h) l)).raise .checksumMismatch) := by
  rw [checkLo_value (s := (s.setAcc (fold crcInit h)).goto (.checkLo n i)) word rfl, checksumOut_fold]
  rfl

/-- A word that fails its check. -/
theorem run_check_mismatch (hb : s.busy = true) (hw : Waiting s.caller) (hp : s.phase = .checkHi n i)
    (word : s.wordBytes i = .value (h, l, c)) (bad : c ≠ checksum h l) :
    run 2 s = .next ((s.setAcc (fold (fold crcInit h) l)).raise .checksumMismatch) :=
  run_check hb hw hp word ((checkLo_halfway word).trans (if_neg bad)) rfl

/-- A word that passes, with more to check. -/
theorem run_check_next {o : Out} {k : Nat} (hb : s.busy = true) (hw : Waiting s.caller) (hp : s.phase = .checkHi n i)
    (word : s.wordBytes i = .value (h, l, c)) (good : c = checksum h l) (more : i + 1 < n)
    (later : run k ((s.setAcc (fold (fold crcInit h) l)).goto (.checkHi n (i + 1))) = o) : run (k + 2) s = o :=
  run_check hb hw hp word ((checkLo_halfway word).trans ((if_pos good).trans (if_pos more))) later

/-- The last word, when every word has passed. -/
theorem run_check_last {out : List Word} (hb : s.busy = true) (hw : Waiting s.caller) (hp : s.phase = .checkHi n i)
    (word : s.wordBytes i = .value (h, l, c)) (good : c = checksum h l) (last : i + 1 = n)
    (assembled : s.assembleWords n = .value out) :
    run 2 s = .next ((s.setAcc (fold (fold crcInit h) l)).appendWords out).stepDone := by
  have assembled' : ((s.setAcc (fold (fold crcInit h) l)).goto (.checkLo n i)).assembleWords n = .value out := by
    rw [← assembled]; exact State.assembleWords_congr rfl rfl
  refine run_check hb hw hp word ((checkLo_halfway word).trans ?_) rfl
  rw [if_pos good, if_neg (by omega), appendValidated_value assembled']
  rfl

end

/-! ### Validation of a whole response -/

theorem refValidate_mismatch {h l c : Byte} (rest : List Byte) (bad : c ≠ checksum h l) :
    refValidate (h :: l :: c :: rest) = .error .checksumMismatch := by
  rw [refValidate, serialChecksum_eq, if_neg bad]

theorem refValidate_word {h l c : Byte} {rest : List Byte} {ws : List Word} (good : c = checksum h l)
    (later : refValidate rest = .ok ws) : refValidate (h :: l :: c :: rest) = .ok (wordOf h l :: ws) := by
  rw [refValidate, serialChecksum_eq, if_pos good, later]

theorem refValidate_later {h l c : Byte} {rest : List Byte} {e : Error} (good : c = checksum h l)
    (later : refValidate rest = .error e) : refValidate (h :: l :: c :: rest) = .error e := by
  rw [refValidate, serialChecksum_eq, if_pos good, later]

/-- What a validation of a response of n words comes to within 2n steps (R120). -/
def Validates (s : State) (n : Nat) (bytes : List Byte) : Prop :=
  ∃ k t, k ≤ 2 * n ∧ run k s = .next t ∧
    match refValidate bytes with
    | .ok ws => t = { s with
        acc := t.acc, words := s.words ++ ws, stepNo := s.stepNo + 1, phase := .ready, live := 0 }
    | .error e => e = .checksumMismatch ∧ t = { s with acc := t.acc, phase := .respond (.err e), live := 0 }

theorem Validates.of_ok {s : State} {n k : Nat} {bytes : List Byte} {ws : List Word} {a : Byte} (hk : k ≤ 2 * n)
    (e : refValidate bytes = .ok ws) (h : run k s = .next ((s.setAcc a).appendWords ws).stepDone) :
    Validates s n bytes := by
  refine ⟨k, _, hk, h, ?_⟩
  rw [e]
  rfl

theorem Validates.of_mismatch {s : State} {n k : Nat} {bytes : List Byte} {a : Byte} (hk : k ≤ 2 * n)
    (e : refValidate bytes = .error .checksumMismatch)
    (h : run k s = .next ((s.setAcc a).raise .checksumMismatch)) : Validates s n bytes := by
  refine ⟨k, _, hk, h, ?_⟩
  rw [e]
  exact ⟨rfl, rfl⟩

theorem validates_one {s : State} {h l c : Byte} (hb : s.busy = true) (hw : Waiting s.caller)
    (hp : s.phase = .checkHi 1 0) (hl : s.live = 3) (h0 : s.buf.read 0 = some h) (h1 : s.buf.read 1 = some l)
    (h2 : s.buf.read 2 = some c) : Validates s 1 [h, l, c] := by
  have word : s.wordBytes 0 = .value (h, l, c) := State.wordBytes_value (by omega) (by omega) h0 h1 h2
  by_cases good : c = checksum h l
  · have assembled : s.assembleWords 1 = .value [wordOf h l] := by
      simp only [State.assembleWords, State.assembleWord_value (i := 0) (by omega) (by omega) h0 h1, List.nil_append]
    exact .of_ok (Nat.le_refl _) (refValidate_word good rfl) (run_check_last hb hw hp word good rfl assembled)
  · exact .of_mismatch (Nat.le_refl _) (refValidate_mismatch [] good) (run_check_mismatch hb hw hp word good)

theorem validates_two {s : State} {h l c h' l' c' : Byte} (hb : s.busy = true) (hw : Waiting s.caller)
    (hp : s.phase = .checkHi 2 0) (hl : s.live = 6) (h0 : s.buf.read 0 = some h) (h1 : s.buf.read 1 = some l)
    (h2 : s.buf.read 2 = some c) (h3 : s.buf.read 3 = some h') (h4 : s.buf.read 4 = some l')
    (h5 : s.buf.read 5 = some c') : Validates s 2 [h, l, c, h', l', c'] := by
  have word : s.wordBytes 0 = .value (h, l, c) := State.wordBytes_value (by omega) (by omega) h0 h1 h2
  have word' : s.wordBytes 1 = .value (h', l', c') := State.wordBytes_value (by omega) (by omega) h3 h4 h5
  by_cases good : c = checksum h l
  · by_cases good' : c' = checksum h' l'
    · have assembled : s.assembleWords 2 = .value [wordOf h l, wordOf h' l'] := by
        simp only [State.assembleWords, State.assembleWord_value (i := 0) (by omega) (by omega) h0 h1,
          State.assembleWord_value (i := 1) (by omega) (by omega) h3 h4, List.nil_append, List.cons_append]
      have valid := refValidate_word good (refValidate_word (rest := []) good' rfl)
      refine .of_ok (a := fold (fold crcInit h') l') (Nat.le_refl _) valid ?_
      exact run_check_next hb hw hp word good (by omega) (run_check_last hb hw rfl word' good' rfl assembled)
    · have invalid := refValidate_later good (refValidate_mismatch [] good')
      refine .of_mismatch (a := fold (fold crcInit h') l') (Nat.le_refl _) invalid ?_
      exact run_check_next hb hw hp word good (by omega) (run_check_mismatch hb hw rfl word' good')
  · exact .of_mismatch (by omega) (refValidate_mismatch _ good) (run_check_mismatch hb hw hp word good)

/-- Settles O38: one word is checked in two steps, two in four, or in two where the first fails. -/
theorem validationIsAllOrNothing : Obligations.ValidationIsAllOrNothing := by
  intro s n bytes hb hw hn hp hl len read
  rcases hn with rfl | rfl
  · obtain ⟨h, l, c, rfl⟩ := List.length_eq_three.mp len
    exact validates_one hb hw hp hl (read 0 (by omega)) (read 1 (by omega)) (read 2 (by omega))
  · match bytes, len with
    | [h, l, c, h', l', c'], _ =>
      exact validates_two hb hw hp hl (read 0 (by omega)) (read 1 (by omega)) (read 2 (by omega)) (read 3 (by omega))
        (read 4 (by omega)) (read 5 (by omega))

/-! ### The retry loop -/

/-- A waiting caller's block in the retry loop under unbounded retry, every listed answer a failure. -/
structure FailingLoop (s : State) : Prop where
  busy      : s.busy = true
  waiting   : Waiting s.caller
  loop      : ∃ n a, s.phase = .retryDelay n a ∨ s.phase = .retryRead n a
  unbounded : s.params.retry = .unbounded
  failing   : ∃ causes : List TransportCause, s.answers = causes.map .err

/-- Such a transport is silent, or fails and goes on failing. -/
theorem draw_failing_cases {s : State} {causes : List TransportCause} (h : s.answers = causes.map .err) :
    s.draw = none ∨ ∃ (c : TransportCause) (later : List TransportCause),
      s.draw = some (.err c, { s with answers := later.map .err }) := by
  cases causes with
  | cons c later => exact .inr ⟨c, later, State.draw_cons h⟩
  | nil =>
    obtain ht | ⟨c, ht⟩ := Option.eq_none_or_eq_some s.thereafter
    · exact .inl (State.draw_silent h ht)
    · exact .inr ⟨c, [], by rw [State.draw_failing h ht, ← h]⟩

/-- Such a block stays so in every step, and its operation runs on without a response. -/
theorem FailingLoop.step {s : State} (h : FailingLoop s) :
    ∃ t, step s = .next t ∧ FailingLoop t ∧ t.op = s.op ∧ t.result = s.result := by
  obtain ⟨hb, hw, ⟨n, a, hp | hp⟩, hu, causes, failing⟩ := h
  · refine ⟨_, (step_waiting hb hw).trans (blockStep_retryDelay hb hp), ?_, rfl, rfl⟩
    exact ⟨hb, hw, ⟨n, a, .inr rfl⟩, hu, causes, failing⟩
  · rw [step_waiting hb hw, blockStep_retryRead hb hp]
    rcases draw_failing_cases failing with hd | ⟨c, later, hd⟩
    · exact ⟨s, retryRead_waits hd, ⟨hb, hw, ⟨n, a, .inr hp⟩, hu, causes, failing⟩, rfl, rfl⟩
    · refine ⟨_, retryRead_again hd (by rw [hu]; exact RetryPolicy.noConfusion), ?_, rfl, rfl⟩
      exact ⟨hb, hw, ⟨n, a + 1, .inl rfl⟩, hu, later, rfl⟩

/-- Settles O57: the loop is kept by every step, so by any number of them. -/
theorem unboundedRetryNeverEnds : Obligations.UnboundedRetryNeverEnds := by
  intro s n a causes hb hw hp hu failing k
  have loop : FailingLoop s := ⟨hb, hw, ⟨n, a, hp⟩, hu, causes, failing⟩
  clear hb hw hp hu failing
  induction k generalizing s with
  | zero => exact ⟨s, rfl, loop.busy, rfl, rfl⟩
  | succ k ih =>
    obtain ⟨u, first, loop', op, result⟩ := loop.step
    obtain ⟨t, later, busy, op', result'⟩ := ih u loop'
    exact ⟨t, run_step first later, busy, op'.trans op, result'.trans result⟩

/-- One round of the loop: the delay, and what the bare read answers (R182). -/
theorem run_round {s t : State} {n a k : Nat} {o : Out} (hb : s.busy = true) (hw : Waiting s.caller)
    (hp : s.phase = .retryDelay n a)
    (second : retryRead n a ((s.record (.delay retryDelayMs)).goto (.retryRead n a)) = .next t)
    (later : run k t = o) : run (k + 2) s = o := by
  have first : step s = .next ((s.record (.delay retryDelayMs)).goto (.retryRead n a)) := by
    rw [step_waiting hb hw, blockStep_retryDelay hb hp]; rfl
  have second' : step ((s.record (.delay retryDelayMs)).goto (.retryRead n a)) = .next t := by
    rw [step_waiting (by exact hb) (by exact hw), blockStep_retryRead (by exact hb) rfl, second]
  exact run_step first (run_step second' later)

/-- The state after a round whose bare read failed, at the position that follows. -/
def State.failedRound (s : State) (n : Nat) (c : TransportCause) (left : List Draw) (ph : Phase) (live : Nat) : State :=
  { s with
    answers := left
    trace := s.trace ++ [.delay retryDelayMs] ++ [.read s.params.devAddr (3 * n) (.err c)]
    phase := ph, live := live }

/-- A failed round that the policy lets go round again. -/
theorem run_round_again {s : State} {n a k : Nat} {c : TransportCause} {left : List Draw} {o : Out}
    (hb : s.busy = true) (hw : Waiting s.caller) (hp : s.phase = .retryDelay n a) (hd : s.answers = .err c :: left)
    (hk : s.params.retry ≠ .bounded (a + 1))
    (later : run k (s.failedRound n c left (.retryDelay n (a + 1)) s.live) = o) : run (k + 2) s = o :=
  run_round hb hw hp
    (retryRead_again (s := (s.record (.delay retryDelayMs)).goto (.retryRead n a)) (State.draw_cons hd) hk) later

/-- The failed round that is the last the policy allows. -/
theorem run_round_exhausted {s : State} {n a : Nat} {c : TransportCause} {left : List Draw}
    (hb : s.busy = true) (hw : Waiting s.caller) (hp : s.phase = .retryDelay n a) (hd : s.answers = .err c :: left)
    (hk : s.params.retry = .bounded (a + 1)) :
    run 2 s = .next (s.failedRound n c left (.respond (.err (.retriesExhausted c))) 0) :=
  run_round hb hw hp
    (retryRead_exhausted (s := (s.record (.delay retryDelayMs)).goto (.retryRead n a)) (State.draw_cons hd) hk) rfl

/-- Settles O58: each failure but the K-th is a round that goes round again, and the K-th raises the error. -/
theorem boundedRetryEndsAfterKFailures : Obligations.BoundedRetryEndsAfterKFailures := by
  intro s n a k c causes rest hb hw hp hk hn failing
  subst hn
  induction causes generalizing s a with
  | nil => exact ⟨_, run_round_exhausted hb hw hp failing hk, rfl, rfl, rfl, rfl, rfl, rfl, rfl, hb⟩
  | cons c' causes ih =>
    have more : s.params.retry ≠ .bounded (a + 1) := by
      rw [hk]
      exact fun e => absurd (RetryPolicy.bounded.inj e) (by simp only [List.length_cons]; omega)
    have bound : a + 1 + causes.length + 1 = a + (c' :: causes).length + 1 := by rw [List.length_cons]; omega
    obtain ⟨t, h, rest⟩ := ih (s.failedRound n c' _ (.retryDelay n (a + 1)) s.live) (a + 1) hb hw rfl rfl
      (bound ▸ hk)
    exact ⟨t, run_round_again hb hw hp failing more h, rest⟩

end Sys2Proof.Machine

/-! The machine refines the operations' pseudocode (43_operations.md): each part of the whole-operation reading of
Machine/Reference.lean is followed by the machine, step by step, attempt by attempt. -/

namespace Sys2Proof.Machine

/-! ### Runs of a running operation -/

/-- Some number of steps leads from one state to another. -/
def Reaches (s t : State) : Prop := ∃ k, run k s = .next t

theorem Reaches.refl (s : State) : Reaches s s := ⟨0, rfl⟩

theorem Reaches.head {s t u : State} (h : step s = .next t) : Reaches t u → Reaches s u :=
  fun ⟨k, later⟩ => ⟨k + 1, run_step h later⟩

theorem Reaches.trans {s t u : State} : Reaches s t → Reaches t u → Reaches s u :=
  fun ⟨k, first⟩ ⟨j, later⟩ => ⟨k + j, (run_add j first).trans later⟩

/-- A waiting caller's running block. -/
structure Running (s : State) : Prop where
  busy    : s.busy = true
  waiting : Waiting s.caller

/-- What a part of a running operation keeps, the events it adds and the answers it leaves. -/
structure During (s t : State) (es : List Event) (left : List Draw) : Prop where
  trace   : t.trace = s.trace ++ es
  answers : t.answers = left
  caller  : t.caller = s.caller
  params  : t.params = s.params
  faults  : t.faults = s.faults
  busy    : t.busy = s.busy
  op      : t.op = s.op

theorem During.refl {s : State} {left : List Draw} (h : s.answers = left) : During s s [] left :=
  ⟨(List.append_nil _).symm, h, rfl, rfl, rfl, rfl, rfl⟩

theorem During.trans {s t u : State} {es es' : List Event} {left left' : List Draw} (h : During s t es left)
    (h' : During t u es' left') : During s u (es ++ es') left' where
  trace := by rw [h'.trace, h.trace, List.append_assoc]
  answers := h'.answers
  caller := h'.caller.trans h.caller
  params := h'.params.trans h.params
  faults := h'.faults.trans h.faults
  busy := h'.busy.trans h.busy
  op := h'.op.trans h.op

theorem Running.during {s t : State} {es : List Event} {left : List Draw} (r : Running s) (h : During s t es left) :
    Running t :=
  ⟨h.busy.trans r.busy, by rw [h.caller]; exact r.waiting⟩

/-! ### A read of n words -/

/-- A response of n words is in BUF, and its validation is next. -/
structure Received (s t : State) (n : Nat) (bytes : List Byte) : Prop where
  phase  : t.phase = .checkHi n 0
  live   : t.live = 3 * n
  len    : bytes.length = 3 * n
  read   : ∀ a, a < 3 * n → t.buf.read a = bytes[a]?
  words  : t.words = s.words
  stepNo : t.stepNo = s.stepNo

/-- How the bus accesses of a read end: the response in BUF, or an error decided. -/
def ReadEnds (s t : State) (n : Nat) : Except Error (List Byte) → Prop
  | .ok bytes => Received s t n bytes
  | .error e => t.phase = .respond (.err e)

theorem received_take {s t : State} {n : Nat} {r : Vector Byte 6} (hn : n = 1 ∨ n = 2)
    (buf : t.buf = s.buf.writeBytes 0 (r.toList.take (3 * n))) (phase : t.phase = .checkHi n 0) (live : t.live = 3 * n)
    (words : t.words = s.words) (stepNo : t.stepNo = s.stepNo) : Received s t n (r.toList.take (3 * n)) := by
  have len := length_take_draw hn r
  refine ⟨phase, live, len, fun a ha => ?_, words, stepNo⟩
  rw [buf, ← Memory.read_writeBytes_inside _ s.buf 0 a (by omega), Nat.zero_add]

/-- The same, seen from a state with the same words and step. -/
theorem Received.from_state {s u t : State} {n : Nat} {bytes : List Byte} (h : Received u t n bytes)
    (words : u.words = s.words) (stepNo : u.stepNo = s.stepNo) : Received s t n bytes :=
  ⟨h.phase, h.live, h.len, h.read, h.words.trans words, h.stepNo.trans stepNo⟩

/-- The retry loop of the pseudocode is the machine's (R182). -/
theorem refRetry_reached {n : Nat} (hn : n = 1 ∨ n = 2) {ds : List Draw} {s : State} {a : Nat}
    {out : Except Error (List Byte)} {es : List Event} {left : List Draw} (r : Running s)
    (hp : s.phase = .retryDelay n a) (ha : s.answers = ds)
    (h : refRetry s.params n a ds = some (out, es, left)) :
    ∃ t, Reaches s t ∧ During s t es left ∧ ReadEnds s t n out := by
  induction ds generalizing s a es with
  | nil => cases h
  | cons d ds ih =>
    cases d with
    | ok x =>
      cases h
      have read := retryRead_answered (s := (s.record (.delay retryDelayMs)).goto (.retryRead n a)) (a := a) hn
        (State.draw_cons ha)
      refine ⟨_, ⟨2, run_round r.busy r.waiting hp read rfl⟩, ?_, ?_⟩
      · exact ⟨List.append_assoc .., rfl, rfl, rfl, rfl, rfl, rfl⟩
      · exact received_take hn rfl rfl rfl rfl rfl
    | err c =>
      rw [refRetry] at h
      split at h
      · rename_i hk
        cases h
        refine ⟨_, ⟨2, run_round_exhausted r.busy r.waiting hp ha hk⟩, ?_, rfl⟩
        exact ⟨List.append_assoc .., rfl, rfl, rfl, rfl, rfl, rfl⟩
      · rename_i hk
        split at h
        · rename_i out' es' left' later
          cases h
          obtain ⟨t, ⟨k, reached⟩, during, ends⟩ := ih
            (s := s.failedRound n c ds (.retryDelay n (a + 1)) s.live) ⟨r.busy, r.waiting⟩ rfl rfl later
          refine ⟨t, ⟨k + 2, run_round_again r.busy r.waiting hp ha hk reached⟩, ?_, ?_⟩
          · have round : During s (s.failedRound n c ds (.retryDelay n (a + 1)) s.live)
                [.delay retryDelayMs, .read s.params.devAddr (3 * n) (.err c)] ds :=
              ⟨List.append_assoc .., rfl, rfl, rfl, rfl, rfl, rfl⟩
            exact round.trans during
          · cases out with
            | ok bytes => exact Received.from_state ends rfl rfl
            | error e => exact ends
        · cases h

/-! ### One step of an operation -/

/-- How a step of an operation ends: its words gathered and the next step due, or an error decided. -/
def StepEnds (s t : State) : Except Error (List Word) → Prop
  | .ok ws => t.phase = .ready ∧ t.stepNo = s.stepNo + 1 ∧ t.words = s.words ++ ws
  | .error e => t.phase = .respond (.err e)

/-- The machine follows a step of the pseudocode. -/
def Follows (s : State) (out : Except Error (List Word)) (es : List Event) (left : List Draw) : Prop :=
  ∃ t, Reaches s t ∧ During s t es left ∧ StepEnds s t out

/-- Validation of a response that is in BUF (R120). -/
theorem Received.follows {s t : State} {n : Nat} {bytes : List Byte} {es : List Event} {left : List Draw}
    (hn : n = 1 ∨ n = 2) (received : Received s t n bytes) (r : Running s) (reached : Reaches s t)
    (during : During s t es left) : Follows s (refValidate bytes) es left := by
  have r' := r.during during
  obtain ⟨k, u, -, h, ends⟩ := validationIsAllOrNothing t n bytes r'.busy r'.waiting hn received.phase received.live
    received.len received.read
  refine ⟨u, reached.trans ⟨k, h⟩, ?_⟩
  generalize u.acc = acc at ends
  cases hv : refValidate bytes with
  | ok ws =>
    rw [hv] at ends
    subst ends
    refine ⟨⟨during.trace, during.answers, during.caller, during.params, during.faults, during.busy, during.op⟩,
      rfl, ?_, ?_⟩
    · exact congrArg (· + 1) received.stepNo
    · exact congrArg (· ++ ws) received.words
  | error e =>
    rw [hv] at ends
    obtain ⟨-, rfl⟩ := ends
    exact ⟨⟨during.trace, during.answers, during.caller, during.params, during.faults, during.busy, during.op⟩, rfl⟩

theorem refWrite_follows {s : State} {f : List Byte} {ds : List Draw} {out : Except Error (List Word)}
    {es : List Event} {left : List Draw} (hs : step s = busWrite f s) (ha : s.answers = ds)
    (h : refWrite s.params f ds = some (out, es, left)) : Follows s out es left := by
  cases ds with
  | nil => cases h
  | cons d ds =>
    cases d with
    | ok x =>
      cases h
      refine ⟨_, .head (hs.trans (busWrite_accepted (State.draw_cons ha))) (.refl _), ?_, rfl, rfl, ?_⟩
      · exact ⟨rfl, rfl, rfl, rfl, rfl, rfl, rfl⟩
      · exact (List.append_nil _).symm
    | err c =>
      cases h
      refine ⟨_, .head (hs.trans (busWrite_failed (State.draw_cons ha))) (.refl _), ?_, rfl⟩
      exact ⟨rfl, rfl, rfl, rfl, rfl, rfl, rfl⟩

/-- The transactor of the pseudocode is the machine's (R180, R181). -/
theorem refExec_follows {s : State} {f : List Byte} {n : Nat} {ds : List Draw} {out : Except Error (List Word)}
    {es : List Event} {left : List Draw} (r : Running s) (hs : step s = transact f n s) (ha : s.answers = ds)
    (h : refExec s.params f n ds = some (out, es, left)) : Follows s out es left := by
  unfold refExec at h
  split at h
  · rename_i h2
    cases h
    exact ⟨_, .head (hs.trans (transact_invalid h2)) (.refl _),
      ⟨(List.append_nil _).symm, ha, rfl, rfl, rfl, rfl, rfl⟩, rfl⟩
  · split at h
    · rename_i h0
      subst h0
      exact refWrite_follows (hs.trans (transact_zero f s)) ha h
    · have hn : n = 1 ∨ n = 2 := by omega
      rw [transact_read hn] at hs
      cases ds with
      | nil => cases h
      | cons d ds =>
        cases d with
        | ok x =>
          cases h
          have reached := Reaches.head (hs.trans (execRead_answered hn (State.draw_cons ha))) (.refl _)
          refine Received.follows hn ?_ r reached ⟨rfl, rfl, rfl, rfl, rfl, rfl, rfl⟩
          exact received_take hn rfl rfl rfl rfl rfl
        | err c =>
          obtain ⟨u, reached, during, phase, words, stepNo⟩ : ∃ u, Reaches s u ∧
              During s u [.writeRead s.params.devAddr f (3 * n) (.err c)] ds ∧ u.phase = .retryDelay n 0 ∧
              u.words = s.words ∧ u.stepNo = s.stepNo :=
            ⟨_, .head (hs.trans (execRead_failed (State.draw_cons ha))) (.refl _), ⟨rfl, rfl, rfl, rfl, rfl, rfl, rfl⟩,
              rfl, rfl, rfl⟩
          rw [← during.params] at h
          dsimp only at h
          split at h
          · cases h
          · rename_i e es' left' loop
            cases h
            obtain ⟨t, reached', during', ends⟩ :=
              refRetry_reached hn (r.during during) phase during.answers loop
            rw [during.params]
            exact ⟨t, reached.trans reached', during.trans during', ends⟩
          · rename_i bytes es' left' loop
            cases h
            obtain ⟨t, reached', during', received⟩ :=
              refRetry_reached hn (r.during during) phase during.answers loop
            rw [during.params]
            exact Received.follows hn (received.from_state words stepNo) r (reached.trans reached')
              (during.trans during')

/-- The machine's step of a waiting caller's block is that of a step of the pseudocode. -/
def Performs (s : State) : RefStep → Prop
  | .exec f n => step s = transact f n s
  | .raw f => step s = busWrite f s

theorem refStep_follows {s : State} {st : RefStep} {ds : List Draw} {out : Except Error (List Word)}
    {es : List Event} {left : List Draw} (r : Running s) (hs : Performs s st) (ha : s.answers = ds)
    (h : refStep s.params st ds = some (out, es, left)) : Follows s out es left := by
  cases st with
  | exec f n => exact refExec_follows r hs ha h
  | raw f => exact refWrite_follows hs ha h

/-! ### A whole sequence -/

/-- A waiting caller's block at the beginning of step k of an operation. -/
structure Ready (p : Params) (op : Op) (k : Nat) (s : State) : Prop where
  running : Running s
  phase   : s.phase = .ready
  op      : s.op = some op
  stepNo  : s.stepNo = k
  params  : s.params = p

/-- From step k on, the machine's sequence of an operation is these steps of the pseudocode and its end. -/
def Sequenced (p : Params) (op : Op) : Nat → List RefStep → Prop
  | k, [] => ∀ s, Ready p op k s → step s = finish op s
  | k, st :: sts => (∀ s, Ready p op k s → Performs s st) ∧ Sequenced p op (k + 1) sts

/-- How a sequence ends: its words gathered and its end due, or an error decided. -/
def SequenceEnds (op : Op) (s t : State) : Except Error (List Word) → Prop
  | .ok ws => step t = finish op t ∧ t.words = s.words ++ ws
  | .error e => t.phase = .respond (.err e)

theorem refSteps_follows {p : Params} {op : Op} {sts : List RefStep} {k : Nat} {s : State} {ds : List Draw}
    {out : Except Error (List Word)} {es : List Event} {left : List Draw} (q : Sequenced p op k sts)
    (r : Ready p op k s) (ha : s.answers = ds) (h : refSteps p sts ds = some (out, es, left)) :
    ∃ t, Reaches s t ∧ During s t es left ∧ SequenceEnds op s t out := by
  induction sts generalizing k s ds es out with
  | nil => cases h; exact ⟨s, .refl s, .refl ha, q s r, (List.append_nil _).symm⟩
  | cons st sts ih =>
    obtain ⟨performs, later⟩ := q
    rw [refSteps] at h
    split at h
    · cases h
    · rename_i e es' ds' first
      cases h
      rw [← r.params] at first
      exact refStep_follows r.running (performs s r) ha first
    · rename_i ws es' ds' first
      rw [← r.params] at first
      obtain ⟨t, reached, during, phase, stepNo, words⟩ := refStep_follows r.running (performs s r) ha first
      have ready : Ready p op (k + 1) t := ⟨r.running.during during, phase, during.op.trans r.op,
        by rw [stepNo, r.stepNo], during.params.trans r.params⟩
      split at h
      · cases h
      · rename_i e es'' left' second
        cases h
        obtain ⟨u, reached', during', ends⟩ := ih later ready during.answers second
        exact ⟨u, reached.trans reached', during.trans during', ends⟩
      · rename_i ws' es'' left' second
        cases h
        obtain ⟨u, reached', during', ended, words'⟩ := ih later ready during.answers second
        exact ⟨u, reached.trans reached', during.trans during', ended, by rw [words', words, List.append_assoc]⟩

/-! ### The sequences of the operations -/

section
variable {p : Params} {op : Op} {k n : Nat} {s : State}

theorem Ready.step_row {i : Instr} (r : Ready p op k s) (ha : action p op k = .run i) : step s = exec i s :=
  Machine.step_row r.running.busy r.running.waiting r.phase r.op r.stepNo (by rw [r.params]; exact ha)

theorem Ready.step_finish (r : Ready p op k s) (ha : action p op k = .finish) : step s = finish op s := by
  rw [step_waiting r.running.busy r.running.waiting, blockStep_ready r.running.busy r.phase r.op, r.params, r.stepNo,
    ha]

/-- A step whose row is a fixed command. -/
theorem Ready.performs_command {i : Instr} {id : CommandId} (ha : action p op k = .run i)
    (he : ∀ s, exec i s = command id n s) : ∀ s, Ready p op k s → Performs s (.exec (refFrame p id) n) := by
  intro s r
  have params := r.params
  subst params
  exact (r.step_row ha).trans (he s)

theorem Ready.step_oneShot {m : LowPowerMode} {code : Word} (r : Ready p (.oneShot m) 0 s)
    (hc : p.start 0 m = some code) : step s = transact (be16 code) 2 s := by
  have params := r.params
  subst params
  cases hi : Instr.ofStart 0 m with
  | none => cases m <;> cases hi
  | some i =>
    rw [r.step_row (startAction_row hi), exec_ofStart hi, if_pos rfl, triggerCommand_reads (by rw [r.op]; simp),
      startCommand_some hc]
    rfl

theorem Ready.step_autoStart {rate : Nat} {m : LowPowerMode} {code : Word} (r : Ready p (.autoStart rate m) 0 s)
    (hc : p.start rate m = some code) : step s = transact (be16 code) 0 s := by
  have params := r.params
  subst params
  cases hi : Instr.ofStart rate m with
  | none => exact step_start_without_row r.running.busy r.running.waiting r.phase r.op r.stepNo hi hc
  | some i =>
    rw [r.step_row (startAction_row hi), exec_ofStart hi]
    split
    · subst rate; rw [triggerCommand_autoStart r.op, startCommand_some hc]; rfl
    · rw [startCommand_some hc]; rfl

end

/-- The sequences of the pseudocode are the machine's (R187 to R199). -/
theorem sequenced {p : Params} {op : Op} {sts : List RefStep} (h : refSequence p op = some sts) :
    Sequenced p op 0 sts := by
  cases op with
  | oneShot m =>
    obtain ⟨code, hc, rfl⟩ := Option.map_eq_some_iff.mp h
    exact ⟨fun s r => r.step_oneShot hc, fun s r => r.step_finish rfl⟩
  | autoStart rate m =>
    obtain ⟨code, hc, rfl⟩ := Option.map_eq_some_iff.mp h
    exact ⟨fun s r => r.step_autoStart hc, fun s r => r.step_finish rfl⟩
  | autoStop => cases h; exact ⟨Ready.performs_command rfl fun _ => rfl, fun s r => r.step_finish rfl⟩
  | autoRead t =>
    cases t <;> cases h <;> exact ⟨Ready.performs_command rfl fun _ => rfl, fun s r => r.step_finish rfl⟩
  | heater l =>
    cases l with
    | zero => cases h; exact ⟨Ready.performs_command rfl fun _ => rfl, fun s r => r.step_finish rfl⟩
    | succ l =>
      obtain ⟨setting, hs, rfl⟩ := Option.map_eq_some_iff.mp h
      refine ⟨Ready.performs_command rfl fun _ => rfl, fun s r => ?_, Ready.performs_command rfl fun _ => rfl,
        fun s r => r.step_finish rfl⟩
      have params := r.params
      subst params
      exact (r.step_row (action_heater_config hs)).trans (exec_heaterCfg setting s)
  | readStatus c =>
    cases c with
    | false => cases h; exact ⟨Ready.performs_command rfl fun _ => rfl, fun s r => r.step_finish rfl⟩
    | true =>
      cases h
      exact ⟨Ready.performs_command rfl fun _ => rfl, Ready.performs_command rfl fun _ => rfl,
        fun s r => r.step_finish rfl⟩
  | readSerial =>
    cases h
    exact ⟨Ready.performs_command rfl fun _ => rfl, Ready.performs_command rfl fun _ => rfl,
      Ready.performs_command rfl fun _ => rfl, fun s r => r.step_finish rfl⟩
  | readMfrId => cases h; exact ⟨Ready.performs_command rfl fun _ => rfl, fun s r => r.step_finish rfl⟩
  | softReset => cases h; exact ⟨Ready.performs_command rfl fun _ => rfl, fun s r => r.step_finish rfl⟩
  | exec cmd n =>
    cases h
    exact ⟨fun s r => step_exec r.running.busy r.running.waiting r.phase r.op r.stepNo, fun s r => r.step_finish rfl⟩
  | checksum b0 b1 => cases h

/-! ### A whole operation -/

/-- What the whole-operation reading answers: a checksum, or the end of a sequence. -/
theorem refOp_cases {p : Params} {op : Op} {ds left : List Draw} {resp : Response} {es : List Event}
    (h : refOp p op ds = some (resp, es, left)) :
    (∃ b0 b1, op = .checksum b0 b1 ∧ resp = .ok (.check (checksum b0 b1)) ∧ es = [] ∧ left = ds) ∨
      ∃ sts, refSequence p op = some sts ∧
        ((∃ e, resp = .err e ∧ refSteps p sts ds = some (.error e, es, left)) ∨
          ∃ ws v, resp = .ok v ∧ successValue op ws = some v ∧ refSteps p sts ds = some (.ok ws, es, left)) := by
  unfold refOp at h
  split at h
  · cases h
    exact .inl ⟨_, _, rfl, by rw [serialChecksum_eq], rfl, rfl⟩
  · split at h
    · cases h
    · rename_i sts hq
      refine .inr ⟨sts, hq, ?_⟩
      split at h
      · cases h
      · rename_i e es' left' hs
        cases h
        exact .inl ⟨e, rfl, hs⟩
      · rename_i ws es' left' hs
        split at h
        · rename_i v hv
          cases h
          exact .inr ⟨ws, v, rfl, hv, hs⟩
        · cases h

/-- Settles O59: after acceptance the machine follows the operation's sequence, and emits the response it ends with; a
CHECKSUM request is answered by its own four steps. -/
theorem machineRefinesTheOperations : Obligations.MachineRefinesTheOperations := by
  intro s op resp es ds rest hp hwf hb hw hc h
  have accepted := step_accepts hb hc hwf
  have ready : Ready s.params op 0 (State.accept { s with caller := rest } op) := ⟨⟨rfl, hw⟩, rfl, rfl, rfl, rfl⟩
  rcases refOp_cases h with ⟨b0, b1, rfl, rfl, rfl, rfl⟩ | ⟨sts, hq, outcome⟩
  · refine ⟨4, _, checksumRequestAnswersTheChecksum s b0 b1 rest hb hw hc, ?_⟩
    exact ⟨by rw [checksum_eq], (List.append_nil _).symm, rfl, rfl, rfl, rfl, rfl, rfl, rfl, rfl⟩
  · have emits {t : State} (reached : Reaches (State.accept { s with caller := rest } op) t)
        (during : During (State.accept { s with caller := rest } op) t es ds) (last : step t = .next (t.emit resp)) :
        ∃ k u, run k s = .next u ∧ u.result = some resp ∧ u.trace = s.trace ++ es ∧ u.answers = ds ∧
          u.caller = rest ∧ u.busy = false ∧ u.op = none ∧ u.stepNo = 0 ∧ u.phase = .ready ∧
          u.params = s.params ∧ u.faults = s.faults := by
      obtain ⟨k, hk⟩ := Reaches.head accepted (reached.trans (.head last (.refl _)))
      exact ⟨k, _, hk, rfl, during.trace, during.answers, during.caller, rfl, rfl, rfl, rfl, during.params,
        during.faults⟩
    rcases outcome with ⟨e, rfl, hs⟩ | ⟨ws, v, rfl, hv, hs⟩
    · obtain ⟨t, reached, during, decided⟩ := refSteps_follows (sequenced hq) ready rfl hs
      have r := ready.running.during during
      exact emits reached during (step_responds r.busy r.waiting decided)
    · obtain ⟨t, reached, during, ended, words⟩ := refSteps_follows (sequenced hq) ready rfl hs
      refine emits reached during (ended.trans (finish_value ?_))
      rw [words]
      exact hv

end Sys2Proof.Machine
